-- ==== Sys2Proof/Word.lean ====
section
/-! DEFINITION. The word, number and index types of the Torjen 4832 model.

A record word or a register is a 32-bit word (0.4, "Memory"; R200).  A sample is a signed integer (0.4,
"Samples") and a gain an unsigned one (0.4, "Gains"): the spec does exact integer arithmetic on both, so they
are `Int` and `Nat` here, and only the words of the highways and of memory are bit vectors. -/

namespace Sys2Proof

/-- One byte of host memory. -/
abbrev Byte := BitVec 8

/-- Sixteen bits: a stored audio sample, or the sample part of a highway slot. -/
abbrev Half := BitVec 16

/-- A record word, a register, or a host address (32 bits). -/
abbrev Word := BitVec 32

/-- A sample, a signed integer in −32768..32767 (0.4). -/
abbrev Sample := Int

/-- A seat, 0..31 (0.4, "Numbering"); also the Seat Highway slot of that seat (R155). -/
abbrev SeatNo := Fin 32

/-- A Network Highway voice slot, 0..31 (0.4). -/
abbrev SlotNo := Fin 32

/-- A stream, 0..15 (0.4). -/
abbrev StreamNo := Fin 16

/-- A cue cell within its seat, 0..3 (0.4). -/
abbrev CellNo := Fin 4

end Sys2Proof
end

