-- ==== Sys2Proof/Syntax.lean ====
section
/-! DEFINITION. The commands of the block: one constructor of `Instr` for each row of spec/opcode_table.json.

The spec's own list of steps (95_what_each_step_holds.md) says that each is whole and indivisible.  A command
carries what reaches the part from outside in that step: the word a host writes, the slots sampled from a highway,
the bit clocks counted on a sync line, and, for the steps in which the part is bus master, what the host and the
bus do between the part's own accesses. -/

namespace Sys2Proof

/-- What happens on the station bus before and at ONE access of the part: the bytes the host writes that land
before the access, and whether the access ends in a bus error (R103, R113, R115, R180, R187, R191).  A step in
which the part makes accesses carries a list of turns, one for each access in the order they are made; accesses
past the end of the list meet no host write and no bus error. -/
structure BusTurn where
  /-- The host's writes that land before the access: a byte and the host address it is written to. -/
  writes : List (Word × Byte)
  /-- Whether the access ends in a bus error. -/
  error : Bool
  deriving DecidableEq, Repr

/-- The four registers of the row REGISTER_WRITE (R173). -/
inductive HostReg
  | stationBase
  | windowBase
  | windowLimit
  | frame
  deriving DecidableEq, Repr

/-- The three status bits of an upstream Seat Highway slot (Table 9-1). -/
inductive StatusBit
  | present
  | muteKey
  | talkKey
  deriving DecidableEq, Repr

/-- A unit of the part that works within a frame on its own: one seat, or one stream of the Playout Engine.  The
spec lets their works run in any order (R96, R143), and notices of different units that reach a class together be
taken in either order (R189); a FRAME_BOUNDARY carries the order its units take. -/
inductive Worker
  | seat (k : SeatNo)
  | stream (j : StreamNo)
  deriving DecidableEq, Repr

/-- The commands, one for each row of the table. -/
inductive Instr
  /-- PIN_RESET (R175). -/
  | pinReset
  /-- SOFT_RESET: a CONTROL write with SOFT_RESET 1 (R176). -/
  | softReset
  /-- RUN: the RUN bit of a host write of `w` to CONTROL (R173). -/
  | run (w : Word)
  /-- ENABLE_MASK: the notice enable mask of a host write of `w` to CONTROL (R173, R193). -/
  | enableMask (w : Word)
  /-- WINDOW_FAULT_CLEAR: a host write of `w` to STATUS (R173). -/
  | windowFaultClear (w : Word)
  /-- REGISTER_WRITE: a host write of `w` to one of four registers (R173, R174). -/
  | registerWrite (r : HostReg) (w : Word)
  /-- SEAT_HIGHWAY_CYCLE: one Seat Highway cycle, with the 32 slot words of the upstream line (R155). -/
  | seatHighwayCycle (upstream : Vector Word 32)
  /-- DEBOUNCE_COMPLETE: a status bit's debounce count has reached 16 (R159). -/
  | debounceComplete (slot : SeatNo) (bit : StatusBit)
  /-- RECEIVE_STORE_ARRIVAL: a received Network Highway cycle, its 32 voice slots and slot 32 (R165, R167). -/
  | receiveStoreArrival (slots : Vector Word 33)
  /-- TRANSMIT_STORE_READ: a Network Highway cycle start, at which the port sends an entry (R168). -/
  | transmitStoreRead
  /-- CYCLE_START: a cycle start seen on the sync input, with the bit clocks since the one before (R163). -/
  | cycleStart (bitClocks : Nat)
  /-- SYNC_TEST: an expected cycle start, with the sync bits of the ending cycle and, last, the sync bit of the
  first bit of the next (R164). -/
  | syncTest (sync : List Bool)
  /-- FRAME_BOUNDARY: the 80th cycle has ended a frame (R158); with the host's side of the bus and the order in
  which the units work. -/
  | frameBoundary (turns : List BusTurn) (order : List Worker)
  /-- HOST_TICK_EXPIRY: the host tick monitor has expired (R196); with the host's side of the bus. -/
  | hostTickExpiry (turns : List BusTurn)
  deriving DecidableEq, Repr

end Sys2Proof
end

