-- ==== Sys2Proof/Decode.lean ====
section
/-! DEFINITION. The decoder.  The table gives no row of this block any bits: its commands are register writes,
highway cycles and events, which no word spells. -/

namespace Sys2Proof

/-- The command that a word spells by the table's bits: none, since no row has bits. -/
def decodeTableWord (_nbits _w : Nat) : Option Instr := none

end Sys2Proof
end

