-- ==== Sys2Proof/Config.lean ====
section
/-! DEFINITION. The constants of the part (Tables 0-2 and 10-2) and the values the spec leaves open. -/

namespace Sys2Proof.Config

/-- Seat Highway cycles in a frame, and samples of a frame (0.4, "Time"). -/
abbrev frameCycles : Nat := 80

/-- Samples held by a seat's reference history (R23). -/
abbrev historyLength : Nat := 2048

/-- Tail blocks in the Tail Pool (R36). -/
abbrev tailBlocks : Nat := 256

/-- Taps in one tail block (R24). -/
abbrev blockTaps : Nat := 64

/-- Unity gain (0.4, "Gains"). -/
abbrev unity : Nat := 16384

/-- The largest number of cycles an elastic store holds (R167, R168). -/
abbrev storeDepth : Nat := 64

/-- The zero cycles an elastic store is set to on going to LOCKED (R163). -/
abbrev storeLock : Nat := 32

/-- The top of every 32-bit count that stops (R102, R148, R165, R170, R189, R195). -/
abbrev countTop : Nat := 4294967295

/-- The longest segment or clip, in source samples (R91, R111). -/
abbrev longest : Nat := 16777215

/-! Offsets in the station area (Table 10-2). -/

/-- The header (Table 12-2). -/
abbrev headerAt : Nat := 0x0000
/-- The six notice slots of 32 bytes. -/
abbrev noticesAt : Nat := 0x0100
/-- The sixteen stream entries of 32 bytes. -/
abbrev streamsAt : Nat := 0x0400
/-- The sixty-four clip entries of 16 bytes. -/
abbrev clipsAt : Nat := 0x0800
/-- The sixteen stream reports of 32 bytes. -/
abbrev streamReportsAt : Nat := 0x0C00
/-- The thirty-two seat control blocks of 128 bytes. -/
abbrev seatsAt : Nat := 0x1000
/-- The thirty-two seat reports of 128 bytes. -/
abbrev seatReportsAt : Nat := 0x2000
/-- The 32 × 4 cue cells of 16 bytes. -/
abbrev cellsAt : Nat := 0x3000

/-- The host tick word of a part that has not read one since its reset ("the last seen word unset", R199).  The
spec gives the notices that carry the last seen word no value for it: a free value (assumption 9). -/
opaque unsetTickWord : Word

end Sys2Proof.Config
end

