-- ==== Sys2Proof/Machine/State.lean ====
section
/-! DEFINITION. The state of the part, as plain data, and `State.reset`, the part right after a pin reset (R175).

Each structure below is one block of Table 0-1, with the reset values of the table that its chapter gives. -/

namespace Sys2Proof.Machine

/-! ## Outcomes -/

/-- The reasons a command can stop with a fault.  There are none: the spec gives every command of this block an
effect, and the part has no exception, trap or halt.  Nothing raises a fault. -/
inductive Fault
  deriving DecidableEq, Repr

/-- The reasons a command has no meaning. -/
inductive Refusal
  /-- A command whose arm of `exec` gives it no meaning yet.  Raised by no arm: every row is modelled.  Safe. -/
  | notModelled (mnemonic : String)
  deriving DecidableEq, Repr

/-! ## Notices (Chapter 11) -/

/-- The six notice classes (Table 12-5). -/
inductive NoticeClass
  | seat
  | stream
  | prompt
  | highway
  | fault
  | supervision
  deriving DecidableEq, Repr

/-- The notice codes of all classes (Tables 11-1 and 12-5). -/
inductive Code
  | headsetOn
  | headsetOff
  | muteKey
  | talkKey
  | ecTracking
  | ecLost
  | poolShort
  | supervisorDetached
  | segmentDone
  | segmentLeft
  | starved
  | promptDone
  | locked
  | lost
  | slip
  | checkStorm
  | settingsRejected
  | readFailed
  | writeFailed
  | windowRefused
  | badSegment
  | tickLate
  | standaloneEntered
  | resumed
  deriving DecidableEq, Repr

/-- The sources of notices (Tables 11-1 and 12-6). -/
inductive Source
  | seat (k : SeatNo)
  | stream (j : StreamNo)
  | header
  | network
  | tickMonitor
  | noticeUnit
  deriving DecidableEq, Repr

/-- One entry of a pending list (R188, R189). -/
structure Notice where
  code : Code
  source : Source
  /-- The number of the frame in which it was handed. -/
  frame : Word
  /-- How many notices were folded into this entry, 0..4,294,967,295. -/
  merged : Nat
  detail0 : Word
  detail1 : Word
  detail2 : Word
  deriving DecidableEq, Repr

/-- One class of the Notice Unit: its pending list, oldest first (R189), and the notice shown in its slot.  The
class is posted while a notice is shown (R190). -/
structure ClassState where
  waiting : List Notice
  shown : Option Notice
  deriving DecidableEq, Repr

/-- The station bus side of the part: host memory, what the host and the bus still do in the step in progress
(the model's own field, empty between steps), WINDOW_FAULT of STATUS, and the Notice Unit, to which every failed
access reports. -/
structure Io where
  /-- Host memory: addresses strictly rising, no entry equal to what an unlisted byte reads as. -/
  mem : List Host.Cell
  turns : List BusTurn
  windowFault : Bool
  seatClass : ClassState
  streamClass : ClassState
  promptClass : ClassState
  highwayClass : ClassState
  faultClass : ClassState
  supervisionClass : ClassState
  deriving DecidableEq, Repr

/-! ## Registers (Table 10-1)

STATUS and FRAME are views of the state (`Flags.lean`); the other fields are stored here. -/

/-- The host-written register fields: RUN and the enable mask of CONTROL, and the three address registers. -/
structure Regs where
  run : Bool
  /-- The notice enable mask: bit `n` enables class number `n`. -/
  enableMask : BitVec 6
  /-- Fourteen lowest bits 0 (R174). -/
  stationBase : Word
  /-- Two lowest bits 0 (R173). -/
  windowBase : Word
  /-- Two lowest bits 0 (R173). -/
  windowLimit : Word
  deriving DecidableEq, Repr

/-! ## The Station Interface's header state and the Host Tick Monitor -/

/-- What the Station Interface holds of the header. -/
structure Header where
  /-- The adopted edition; `none` is "never adopted" (R178). -/
  edition : Option Word
  /-- LAYOUT_BAD of STATUS (R182). -/
  layoutBad : Bool
  /-- Whether a header has been adopted since the reset (R156). -/
  adopted : Bool
  /-- The adopted count of seats in service (R1). -/
  seats : Nat
  /-- The count of seats in service that governs the frame in progress (R141). -/
  serving : Nat
  deriving DecidableEq, Repr

/-- The Host Tick Monitor (R195). -/
structure TickMonitor where
  /-- T in frames; 0 turns the monitor off. -/
  period : Nat
  /-- The last host tick word seen; `none` is "unset" (R199). -/
  last : Option Word
  /-- The frame count c. -/
  count : Nat
  /-- The STANDALONE flag. -/
  standalone : Bool
  /-- The stand-alone count, which RESUMED carries. -/
  aloneFrames : Nat
  /-- The monitor has expired at the boundary that opened the frame in progress, and the step HOST_TICK_EXPIRY,
  with the scans of that boundary, is still to be taken (the model's own field, assumption 2). -/
  expired : Bool
  deriving DecidableEq, Repr

/-! ## The Seat Highway Port -/

/-- The divider settings of a highway (R157). -/
structure Divider where
  div : Nat
  odd : Bool
  len : Nat
  deriving DecidableEq, Repr

/-- The debounced value and debounce count of one status bit (R159).  The count is 16 between the cycle that
completes 16 differing samples and the step DEBOUNCE_COMPLETE (assumption 3), and in 0..15 otherwise. -/
structure Debounce where
  value : Bool
  count : Nat
  deriving DecidableEq, Repr

/-- The three debounced status bits of one slot. -/
structure SlotStatus where
  present : Debounce
  muteKey : Debounce
  talkKey : Debounce
  deriving DecidableEq, Repr

/-- The Seat Highway Port (R155 to R160). -/
structure SeatPort where
  /-- RUNNING, or DISABLED (R156). -/
  running : Bool
  adopted : Divider
  /-- The settings of the cycles of the frame in progress. -/
  current : Divider
  /-- The port starts or restarts at the next frame boundary (R156). -/
  restart : Bool
  slots : Vector SlotStatus 32
  /-- The MIC samples of the frame's cycles so far, oldest first, one per slot. -/
  mics : List (Vector Sample 32)
  /-- The downstream slot words of the last cycle (the pin's data). -/
  line : Vector Word 32
  deriving DecidableEq, Repr

/-! ## The Network Highway Port -/

/-- The Network Highway settings of the header (R161, R162). -/
structure NetSettings where
  enable : Bool
  /-- Role: LEAD, or FOLLOW. -/
  lead : Bool
  /-- Slot width: 16 bits, or 32. -/
  narrow : Bool
  /-- Sync form: SPAN, or PULSE. -/
  span : Bool
  check : Bool
  divider : Divider
  deriving DecidableEq, Repr

/-- The lock state (Table 9-3). -/
inductive Lock
  | down
  | hunt
  | locked
  deriving DecidableEq, Repr

/-- An entry of the receive store: 32 voice samples and the failed mark (R167). -/
structure RxCycle where
  samples : Vector Sample 32
  failed : Bool
  deriving DecidableEq, Repr

/-- The Network Highway Port (R161 to R172). -/
structure NetPort where
  adopted : NetSettings
  current : NetSettings
  /-- The port restarts at the next frame boundary (R162). -/
  restart : Bool
  /-- A restarted LEAD port goes to LOCKED at the end of the next timeline cycle (R162). -/
  leadStart : Bool
  lock : Lock
  /-- The run count of HUNT (R163). -/
  run : Nat
  /-- The miss count of LOCKED (R164). -/
  miss : Nat
  /-- The receive store, oldest first. -/
  rx : List RxCycle
  /-- The transmit store, oldest first. -/
  tx : List (Vector Sample 32)
  /-- The entry last delivered to the timeline. -/
  lastRx : RxCycle
  /-- The entry last sent. -/
  lastTx : Vector Sample 32
  /-- The last good cycle (R165). -/
  lastGood : Vector Sample 32
  checkFailures : Nat
  /-- The consecutive failure count, 0..32 (R166). -/
  consecutive : Nat
  storm : Bool
  rxSlips : Nat
  txSlips : Nat
  /-- The frame in progress is a fault frame (R169). -/
  fault : Bool
  /-- The samples delivered to the timeline in the frame's cycles so far, oldest first, one per slot. -/
  ys : List (Vector Sample 32)
  /-- The slot words of the last cycle sent (the pin's data): 32 voice slots and slot 32. -/
  line : Vector Word 33
  deriving DecidableEq, Repr

/-! ## Seats: settings -/

/-- The seat modes (Table 1-4). -/
inductive Mode
  | idle
  | talk
  | hold
  | supervise
  deriving DecidableEq, Repr

/-- The supervision kinds (Table 1-5). -/
inductive Kind
  | listen
  | whisper
  | barge
  deriving DecidableEq, Repr

/-- The ROUTING fields (Table 1-5).  A field that does not matter to the requested mode is held as written. -/
structure Routing where
  mode : Mode
  /-- `none` is "not held", the reset value (Table 1-12). -/
  nhSlot : Option Nat
  /-- A stream number, or 255 for none. -/
  holdStream : Nat
  /-- `none` is the reset value (Table 1-12). -/
  target : Option Nat
  kind : Nat
  pushToTalk : Bool
  hostMute : Bool
  keyMuteAllowed : Bool
  deriving DecidableEq, Repr

/-- The standing ECHO fields (Table 2-3). -/
structure Echo where
  enable : Bool
  tailRequest : Nat
  tailFloor : Nat
  bulkDelay : Nat
  stepShift : Nat
  talkRatioShift : Nat
  talkHangover : Nat
  referenceFloor : Nat
  hostFreeze : Bool
  residualGain : Nat
  deriving DecidableEq, Repr

/-- The NOISE fields (Table 3-3). -/
structure Noise where
  enable : Bool
  gainTable : Vector Nat 8
  floorRiseShift : Nat
  releaseStep : Nat
  vadBand : Nat
  vadHangover : Nat
  deriving DecidableEq, Repr

/-- The LEVELS fields (Table 8-4). -/
structure Levels where
  mic : Nat
  cust : Nat
  side : Nat
  whisper : Nat
  hold : Nat
  listen : Nat
  barge : Nat
  duck : Nat
  deriving DecidableEq, Repr

/-- The standing CADENCE fields (Table 7-2). -/
structure Cadence where
  reminderEnable : Bool
  halfPeriod : Nat
  amplitude : Nat
  onFrames : Nat
  offFrames : Nat
  single : Bool
  deriving DecidableEq, Repr

/-- An entry of an attachment list (section 4.1). -/
structure Attachment where
  seat : SeatNo
  kind : Kind
  pushToTalk : Bool
  deriving DecidableEq, Repr

/-- Everything about a seat that the adoption scan changes and that governs the seat from the next frame: its
settings, the target it is attached to, and its own attachment list (R2, R70). -/
structure Settings where
  routing : Routing
  echo : Echo
  noise : Noise
  levels : Levels
  cadence : Cadence
  /-- The target whose list this seat stands on; `none` for a detached supervisor and in any other mode. -/
  attachedTo : Option SeatNo
  /-- The seat's attachment list, first then second. -/
  supervisors : List Attachment
  deriving DecidableEq, Repr

/-- What the last scan did to a seat that takes effect when the next frame opens, beside the new settings. -/
structure Due where
  /-- The key mute flag is cleared (R16). -/
  clearKeyMute : Bool
  /-- A restart that zeroes every tap: a change of bulk_delay, or clear_taps (R34). -/
  zeroTaps : Bool
  /-- Entry from IDLE: the suppressor takes its initial values (R64). -/
  initSuppressor : Bool
  /-- A reminder start (`some true`, R131) or stop (`some false`, R132). -/
  reminder : Option Bool
  /-- half_period has changed (R138). -/
  newPeriod : Bool
  deriving DecidableEq, Repr

/-! ## Seats: the blocks -/

/-- The three headset status values a seat takes each frame (R14). -/
structure Status where
  present : Bool
  muteKey : Bool
  talkKey : Bool
  deriving DecidableEq, Repr

/-- The states of an echo canceller (section 2.7). -/
inductive EcState
  | off
  | converging
  | tracking
  deriving DecidableEq, Repr

/-- The four hold reasons (R28), each whether it held at any sample of a frame. -/
structure HoldReasons where
  doubleTalk : Bool
  hostFreeze : Bool
  lowReference : Bool
  networkFault : Bool
  deriving DecidableEq, Repr

/-- A seat's echo canceller (Chapter 2). -/
structure Canceller where
  state : EcState
  /-- The taps in use, tap 0 first: 64 for each block held (R24). -/
  taps : List Int
  /-- The reference history, newest sample first (R23). -/
  history : List Sample
  /-- P of the last sample (R25). -/
  power : Nat
  /-- M of the last sample (R25). -/
  level : Nat
  /-- The double-talk count, 0..8000 (R27). -/
  talk : Nat
  convergenceRun : Nat
  lossRun : Nat
  /-- The frame figures of the last frame (R32). -/
  ex : Nat
  ey : Nat
  ee : Nat
  reasons : HoldReasons
  deriving DecidableEq, Repr

/-- A seat's noise suppressor (Table 3-1). -/
structure Suppressor where
  floor : Nat
  gain : Nat
  band : Nat
  voice : Bool
  hangover : Nat
  /-- The initial values are to be taken at the next frame work if PRESENT is then 1 (R64). -/
  initDue : Bool
  deriving DecidableEq, Repr

/-- A seat's whisper arbiter (Chapter 4). -/
structure Arbiter where
  /-- The duck value D (R80). -/
  duck : Nat
  /-- The quiet count q, 0..20 (R82). -/
  quiet : Nat
  /-- The whisper-path-active flag of the last frame (R78). -/
  active : Bool
  deriving DecidableEq, Repr

/-- The phases of a cadence unit (R129). -/
inductive Phase
  | stopped
  | on
  | off
  deriving DecidableEq, Repr

/-- A seat's cadence unit (R129). -/
structure CadenceUnit where
  phase : Phase
  elapsed : Nat
  position : Nat
  /-- User FALLBACK, or REMINDER. -/
  fallback : Bool
  /-- The reminder start or stop that governs the frame in progress (R131, R132). -/
  due : Option Bool
  /-- half_period changed for the frame in progress (R138). -/
  newPeriod : Bool
  deriving DecidableEq, Repr

/-- The states of a cue cell (Table 12-9). -/
inductive CellState
  | empty
  | posted
  | playing
  | paused
  | done
  deriving DecidableEq, Repr

/-- The results of a prompt (Table 12-9). -/
inductive Result
  | played
  | cancelled
  | failed
  | abandoned
  | withdrawn
  deriving DecidableEq, Repr

/-- A cell in a play order: its expected state (R115) and its removal mark (R114). -/
structure Cue where
  cell : CellNo
  expected : CellState
  mark : Option Result
  deriving DecidableEq, Repr

/-- How far the first cell of a play order has come: not prepared; prepared in the frame before, so that it starts
in this one (R117); started; or prepared before a stop of RUN, to be prepared again (R128). -/
inductive Stage
  | fresh
  | ready
  | started
  | again
  deriving DecidableEq, Repr

/-- The clip record of the prepared first cell, with the clip cursor (R116). -/
structure Clip where
  address : Word
  length : Nat
  narrow : Bool
  /-- The next source sample to be heard; it is also the samples played count (R118). -/
  cursor : Nat
  deriving DecidableEq, Repr

/-- A DONE write that was not made (R121); a stale cell's write is the state word alone. -/
structure OwedCell where
  cell : CellNo
  result : Result
  samples : Option Nat
  deriving DecidableEq, Repr

/-- The Prompt Unit's state for one seat (Chapter 6). -/
structure PromptUnit where
  /-- The play order, first cell first. -/
  order : List Cue
  stage : Stage
  /-- The tag kept at preparation; 0 until it is read (R116, R122). -/
  tag : Word
  clip : Option Clip
  /-- The prefetch buffer: 80 output samples. -/
  buffer : List Sample
  /-- The source samples in the buffer. -/
  filled : Nat
  /-- The buffer is the clip's last (R118). -/
  last : Bool
  /-- Cells found stale by the last cell scan (R113). -/
  stale : List CellNo
  owed : List OwedCell
  deriving DecidableEq, Repr

/-- A seat's results kept for other seats in the following frame (R75). -/
structure Kept where
  cust : List Sample
  sent : List Sample
  voice : Bool
  talkKey : Bool
  deriving DecidableEq, Repr

/-- A seat's mixer: what awaits transmission, and the clip counts (R143, R148). -/
structure Mixer where
  ear : List Sample
  line : List Sample
  /-- The Network Highway slot the seat held in the frame that formed `line` (R168). -/
  lineSlot : Option Nat
  onAir : Bool
  whisper : Bool
  earClips : Nat
  lineClips : Nat
  deriving DecidableEq, Repr

/-- One seat. -/
structure Seat where
  /-- The adopted edition; `none` is "never adopted" (R178). -/
  edition : Option Word
  /-- The settings as the last scan left them. -/
  adopted : Settings
  /-- The settings that govern the frame in progress (R2). -/
  governing : Settings
  due : Due
  keyMute : Bool
  /-- The status last taken (R14). -/
  status : Status
  canceller : Canceller
  /-- The Tail Pool's block list of the seat, oldest first (R36). -/
  blocks : List Nat
  /-- The waiting condition (R39). -/
  waiting : Bool
  suppressor : Suppressor
  arbiter : Arbiter
  cadence : CadenceUnit
  prompt : PromptUnit
  kept : Kept
  mixer : Mixer
  deriving DecidableEq, Repr

/-! ## Streams (Chapter 5) -/

/-- The states of a stream (Table 5-3). -/
inductive StreamState
  | disabled
  | waiting
  | running
  | starved
  deriving DecidableEq, Repr

/-- The two segments of a stream entry. -/
inductive Segment
  | a
  | b
  deriving DecidableEq, Repr

/-- A stream's private copy of where it stands in its current segment (section 5.3). -/
inductive Position
  /-- A one-shot segment: the remaining count and the address of the next source sample. -/
  | oneShot (segment : Segment) (remaining : Nat) (address : Word)
  /-- A loop segment: start address and length, read at entry, and the loop cursor. -/
  | loop (segment : Segment) (start : Word) (length cursor : Nat)
  deriving DecidableEq, Repr

/-- A write-back to be made at the end of the frame (R98). -/
structure WriteBack where
  segment : Segment
  address : Word
  remaining : Nat
  deriving DecidableEq, Repr

/-- One stream of the Playout Engine. -/
structure Stream where
  edition : Option Word
  enable : Bool
  /-- Format NARROW, or WIDE. -/
  narrow : Bool
  state : StreamState
  position : Option Position
  /-- The listener count, 0..32 (R92). -/
  listeners : Nat
  /-- The frames-starved count (R102). -/
  framesStarved : Nat
  /-- The bad-seen marks (R91). -/
  badA : Bool
  badB : Bool
  /-- The owed final writes: the address word owed for each segment (R105). -/
  owedA : Option Word
  owedB : Option Word
  /-- The prefetch buffer: the 80 samples for the frame in progress, and whether it is marked playing (R96). -/
  buffer : List Sample
  playing : Bool
  /-- The write-backs the fetch of this frame has left to make (R98); empty between steps. -/
  backs : List WriteBack
  deriving DecidableEq, Repr

/-! ## The whole part -/

/-- The state of the part, and the queue of commands that wait. -/
structure State where
  /-- The commands waiting, first in, first out. -/
  pending : List Instr
  regs : Regs
  /-- The frame number of the frame in progress (R158). -/
  frame : Word
  /-- The Seat Highway cycles of the frame so far, 0..80. -/
  cycle : Nat
  /-- The frame in progress is a frame of work; STATUS shows it as RUNNING (R177). -/
  running : Bool
  /-- STATION_BASE as sampled at the boundary that opened the frame (R174). -/
  area : Word
  io : Io
  tick : TickMonitor
  header : Header
  sh : SeatPort
  nh : NetPort
  seats : Vector Seat 32
  streams : Vector Stream 16
  /-- The Tail Pool's free list, lowest block first (R36). -/
  pool : List Nat
  /-- The Network Highway slot map: the seat that holds each slot (R5). -/
  slotMap : Vector (Option SeatNo) 32
  deriving DecidableEq, Repr

/-! ## Reset values -/

/-- A frame of silence. -/
def silence : List Sample := List.replicate Config.frameCycles 0

/-- 32 zero samples. -/
def zeroCycle : Vector Sample 32 := Vector.replicate 32 0

/-- An unposted class with an empty list (R194). -/
def ClassState.reset : ClassState := { waiting := [], shown := none }

/-- The bus side and the Notice Unit after a reset (R175, R194). -/
def Io.reset : Io :=
  { mem := [], turns := [], windowFault := false, seatClass := .reset, streamClass := .reset, promptClass := .reset,
    highwayClass := .reset, faultClass := .reset, supervisionClass := .reset }

/-- Every register 0 (R175). -/
def Regs.reset : Regs :=
  { run := false, enableMask := 0, stationBase := 0, windowBase := 0, windowLimit := 0 }

/-- No header adopted, no seat in service (R175). -/
def Header.reset : Header :=
  { edition := none, layoutBad := false, adopted := false, seats := 0, serving := 0 }

/-- The monitor off, c 0, the last seen word unset (R195, R199). -/
def TickMonitor.reset : TickMonitor :=
  { period := 0, last := none, count := 0, standalone := false, aloneFrames := 0, expired := false }

/-- A status bit after reset, and after a restart of the port (R156, R171). -/
def Debounce.reset : Debounce := { value := false, count := 0 }

/-- A slot's status after reset. -/
def SlotStatus.reset : SlotStatus := { present := .reset, muteKey := .reset, talkKey := .reset }

/-- The Seat Highway Port after reset (Table 9-5). -/
def SeatPort.reset : SeatPort :=
  { running := false
    adopted := { div := 1, odd := true, len := 1024 }
    current := { div := 1, odd := true, len := 1024 }
    restart := false
    slots := Vector.replicate 32 .reset
    mics := []
    line := Vector.replicate 32 0 }

/-- The Network Highway settings after reset (Table 9-5). -/
def NetSettings.reset : NetSettings :=
  { enable := false, lead := false, narrow := false, span := false, check := false,
    divider := { div := 1, odd := false, len := 1056 } }

/-- A cycle of zero samples, unmarked. -/
def RxCycle.zero : RxCycle := { samples := zeroCycle, failed := false }

/-- The Network Highway Port after reset (Table 9-5).  The entries last delivered and last sent have no reset value
in the spec (assumption 8). -/
def NetPort.reset : NetPort :=
  { adopted := .reset, current := .reset, restart := false, leadStart := false, lock := .down, run := 0, miss := 0,
    rx := [], tx := [], lastRx := .zero, lastTx := zeroCycle, lastGood := zeroCycle, checkFailures := 0,
    consecutive := 0, storm := false, rxSlips := 0, txSlips := 0, fault := false, ys := [],
    line := Vector.replicate 33 0 }

/-- ROUTING after reset (Table 1-12). -/
def Routing.reset : Routing :=
  { mode := .idle, nhSlot := none, holdStream := 255, target := none, kind := 0, pushToTalk := false,
    hostMute := false, keyMuteAllowed := false }

/-- ECHO after reset (Table 2-4). -/
def Echo.reset : Echo :=
  { enable := false, tailRequest := 1, tailFloor := 1, bulkDelay := 0, stepShift := 1, talkRatioShift := 1,
    talkHangover := 0, referenceFloor := 0, hostFreeze := false, residualGain := 16384 }

/-- NOISE after reset (Table 3-5). -/
def Noise.reset : Noise :=
  { enable := false, gainTable := Vector.replicate 8 16384, floorRiseShift := 4, releaseStep := 1, vadBand := 1,
    vadHangover := 0 }

/-- LEVELS after reset (Table 8-6). -/
def Levels.reset : Levels :=
  { mic := 16384, cust := 16384, side := 0, whisper := 16384, hold := 16384, listen := 16384, barge := 16384,
    duck := 16384 }

/-- CADENCE after reset (Table 7-5). -/
def Cadence.reset : Cadence :=
  { reminderEnable := false, halfPeriod := 4, amplitude := 0, onFrames := 1, offFrames := 0, single := false }

/-- A seat's settings after reset: IDLE, attached to nothing, no supervisors (R21). -/
def Settings.reset : Settings :=
  { routing := .reset, echo := .reset, noise := .reset, levels := .reset, cadence := .reset, attachedTo := none,
    supervisors := [] }

/-- Nothing due. -/
def Due.none : Due :=
  { clearKeyMute := false, zeroTaps := false, initSuppressor := false, reminder := .none, newPeriod := false }

/-- No key pressed, no headset (Table 1-12). -/
def Status.reset : Status := { present := false, muteKey := false, talkKey := false }

/-- No hold reason. -/
def HoldReasons.none : HoldReasons :=
  { doubleTalk := false, hostFreeze := false, lowReference := false, networkFault := false }

/-- A history of zeros (R49). -/
def zeroHistory : List Sample := List.replicate Config.historyLength 0

/-- A canceller after reset (Table 2-4). -/
def Canceller.reset : Canceller :=
  { state := .off, taps := [], history := zeroHistory, power := 0, level := 0, talk := 0, convergenceRun := 0,
    lossRun := 0, ex := 0, ey := 0, ee := 0, reasons := .none }

/-- A suppressor's initial values (R64, Table 3-5). -/
def Suppressor.reset : Suppressor :=
  { floor := 1024, gain := 16384, band := 0, voice := false, hangover := 0, initDue := false }

/-- An arbiter after reset (Table 4-2). -/
def Arbiter.reset : Arbiter := { duck := 16384, quiet := 20, active := false }

/-- A cadence unit after reset (Table 7-5). -/
def CadenceUnit.reset : CadenceUnit :=
  { phase := .stopped, elapsed := 0, position := 0, fallback := false, due := none, newPeriod := false }

/-- The Prompt Unit of a seat after reset (Table 6-3). -/
def PromptUnit.reset : PromptUnit :=
  { order := [], stage := .fresh, tag := 0, clip := none, buffer := silence, filled := 0, last := false, stale := [],
    owed := [] }

/-- No results for other seats (Table 4-2). -/
def Kept.zero : Kept := { cust := silence, sent := silence, voice := false, talkKey := false }

/-- A mixer after reset (Table 8-6). -/
def Mixer.reset : Mixer :=
  { ear := silence, line := silence, lineSlot := none, onAir := false, whisper := false, earClips := 0,
    lineClips := 0 }

/-- A seat after reset (Table 1-12). -/
def Seat.reset : Seat :=
  { edition := none, adopted := .reset, governing := .reset, due := .none, keyMute := false, status := .reset,
    canceller := .reset, blocks := [], waiting := false, suppressor := .reset, arbiter := .reset, cadence := .reset,
    prompt := .reset, kept := .zero, mixer := .reset }

/-- A stream after reset (Table 5-6). -/
def Stream.reset : Stream :=
  { edition := none, enable := false, narrow := false, state := .disabled, position := none, listeners := 0,
    framesStarved := 0, badA := false, badB := false, owedA := none, owedB := none, buffer := silence,
    playing := false, backs := [] }

/-- The part right after a pin reset (R175), with no command waiting. -/
def State.reset : State :=
  { pending := []
    regs := .reset
    frame := 0
    cycle := 0
    running := false
    area := 0
    io := .reset
    tick := .reset
    header := .reset
    sh := .reset
    nh := .reset
    seats := Vector.replicate 32 .reset
    streams := Vector.replicate 16 .reset
    pool := List.range Config.tailBlocks
    slotMap := Vector.replicate 32 none }

end Sys2Proof.Machine
end

