-- ==== Sys2Proof/Machine/Ops.lean ====
section
/-! DEFINITION. The operations every block shares: host memory, the station bus port with its write window, the
Notice Unit's pending lists, and the exact sample arithmetic of section 0.4. -/

namespace Sys2Proof.Machine

/-! ## Vectors -/

/-- The vector of a function's values.  It is irreducible so that no comparison of states evaluates it entry by entry;
`tabulate_get` says what it holds. -/
@[irreducible] def tabulate {α : Type} {n : Nat} (f : Fin n → α) : Vector α n := Vector.ofFn f

/-- An entry of a tabulated vector is the function's value. -/
@[simp] theorem tabulate_get {α : Type} {n : Nat} (f : Fin n → α) (k : Fin n) : (tabulate f)[k] = f k := by
  simp [tabulate]

/-! ## Arithmetic (0.4) -/

/-- Saturate to the sample range (0.4, "Samples"). -/
def saturate (x : Int) : Sample := max (-32768) (min 32767 x)

/-- Add 8192 and divide by 16384 toward minus infinity, the rounding of 0.4, R57, R81 and R146. -/
def roundUnity (x : Int) : Int := (x + 8192) / 16384

/-- The multiply-and-round of a sample by a gain (0.4). -/
def mulRound (x : Sample) (gain : Nat) : Sample := saturate (roundUnity (x * gain))

/-- The mean square of a frame: the sum of its 80 squares divided by 80 and truncated (0.4). -/
def meanSquare (xs : List Sample) : Nat := (xs.map fun x => x.natAbs * x.natAbs).sum / Config.frameCycles

/-- Sample `i` of a gain ramp from `old` to `new` across a frame, the quotient truncated (R56, R80). -/
def rampAt (old new : Nat) (i : Nat) : Int := old + (((new : Int) - old) * (i + 1)).tdiv Config.frameCycles

/-- A 32-bit count that stops at its top raised by 1. -/
def countUp (n : Nat) : Nat := if n < Config.countTop then n + 1 else n

/-- A value brought into a range (R45, R65, R137, R149). -/
def clamp (lo hi n : Nat) : Nat := max lo (min hi n)

/-- A flag as a word. -/
def flagWord (b : Bool) : Word := if b then 1 else 0

/-- Pointwise sum of two frames. -/
def addFrames (xs ys : List Int) : List Int := List.zipWith (· + ·) xs ys

/-- The first `n` entries of a list, zeros standing for missing ones. -/
def takePad : Nat → List Int → List Int
  | 0, _ => []
  | n + 1, [] => 0 :: takePad n []
  | n + 1, x :: xs => x :: takePad n xs

/-! ## Host memory

The canonical form: addresses strictly rising, no entry equal to what an unlisted byte reads as. -/

/-- What a byte of host memory that nothing has written reads as.  The spec gives host memory no reset contents
(assumption 4). -/
def unlistedByte : Byte := 0

/-- The addresses of a memory above `a` rise strictly, and no entry equals an unlisted byte. -/
def risingFrom : Nat → List Host.Cell → Bool
  | _, [] => true
  | a, (b, v) :: m => decide (a ≤ b) && decide (v ≠ unlistedByte) && risingFrom (b + 1) m

/-- The canonical form of host memory. -/
def memoryWf (m : List Host.Cell) : Bool := risingFrom 0 m

/-- Read one byte. -/
def readByte (a : Nat) : List Host.Cell → Byte
  | [] => unlistedByte
  | (b, v) :: m => if a = b then v else if a < b then unlistedByte else readByte a m

/-- Put a byte in front of a memory, unless it equals an unlisted byte. -/
def consCell (a : Nat) (v : Byte) (m : List Host.Cell) : List Host.Cell :=
  if v = unlistedByte then m else (a, v) :: m

/-- Write one byte, keeping the canonical form. -/
def writeByte (a : Nat) (v : Byte) : List Host.Cell → List Host.Cell
  | [] => consCell a v []
  | (b, w) :: m =>
    if a < b then consCell a v ((b, w) :: m)
    else if a = b then consCell a v m
    else (b, w) :: writeByte a v m

/-- Read a little-endian 32-bit word (0.4, "Memory"). -/
def readMemWord (a : Nat) (m : List Host.Cell) : Word :=
  readByte (a + 3) m ++ readByte (a + 2) m ++ readByte (a + 1) m ++ readByte a m

/-- Read a little-endian 16-bit word (0.4, "Memory"). -/
def readMemHalf (a : Nat) (m : List Host.Cell) : Half := readByte (a + 1) m ++ readByte a m

/-- Write a little-endian 32-bit word (0.4, "Memory"). -/
def writeMemWord (a : Nat) (w : Word) (m : List Host.Cell) : List Host.Cell :=
  writeByte (a + 3) (w.extractLsb' 24 8) (writeByte (a + 2) (w.extractLsb' 16 8)
    (writeByte (a + 1) (w.extractLsb' 8 8) (writeByte a (w.extractLsb' 0 8) m)))

/-- The host's own writes, in order. -/
def hostWrites (ws : List (Word × Byte)) (m : List Host.Cell) : List Host.Cell :=
  ws.foldl (fun m w => writeByte w.1.toNat w.2 m) m

/-! ## What the bus side needs of the rest of the part -/

/-- What an access or a notice takes from the rest of the part: the frame number that a notice handed now carries
(R188), whether the part is working, the sampled station area (R174), and the write window (R186). -/
structure Env where
  frame : Word
  running : Bool
  area : Nat
  lo : Nat
  hi : Nat
  deriving DecidableEq, Repr

/-- The bus environment of a state. -/
def State.env (s : State) : Env :=
  { frame := s.frame, running := s.running, area := s.area.toNat, lo := s.regs.windowBase.toNat,
    hi := s.regs.windowLimit.toNat }

/-! ## The Notice Unit's pending lists (11.1, 11.2) -/

/-- The class of a code (Table 11-1). -/
def Code.cls : Code → NoticeClass
  | .headsetOn | .headsetOff | .muteKey | .talkKey | .ecTracking | .ecLost | .poolShort | .supervisorDetached => .seat
  | .segmentDone | .segmentLeft | .starved => .stream
  | .promptDone => .prompt
  | .locked | .lost | .slip | .checkStorm => .highway
  | .settingsRejected | .readFailed | .writeFailed | .windowRefused | .badSegment => .fault
  | .tickLate | .standaloneEntered | .resumed => .supervision

/-- One class of the Notice Unit. -/
def Io.cls (io : Io) : NoticeClass → ClassState
  | .seat => io.seatClass
  | .stream => io.streamClass
  | .prompt => io.promptClass
  | .highway => io.highwayClass
  | .fault => io.faultClass
  | .supervision => io.supervisionClass

/-- Replace one class of the Notice Unit. -/
def Io.setCls (io : Io) (c : NoticeClass) (x : ClassState) : Io :=
  match c with
  | .seat => { io with seatClass := x }
  | .stream => { io with streamClass := x }
  | .prompt => { io with promptClass := x }
  | .highway => { io with highwayClass := x }
  | .fault => { io with faultClass := x }
  | .supervision => { io with supervisionClass := x }

/-- Whether two notices have the same source and code (R189). -/
def Notice.sameEvent (x y : Notice) : Bool := decide (x.code = y.code) && decide (x.source = y.source)

/-- A notice reaching its class's pending list: folded into the entry of the same source and code, which keeps its
place, or appended with merged count 0 (R189). -/
def foldNotice (n : Notice) : List Notice → List Notice
  | [] => [{ n with merged := 0 }]
  | x :: xs =>
    if n.sameEvent x then { n with merged := countUp x.merged } :: xs
    else x :: foldNotice n xs

/-- Hand a notice to the Notice Unit.  While the part is stopped no block hands notices (R188). -/
def hand (e : Env) (c : Code) (src : Source) (d0 d1 d2 : Word) (io : Io) : Io :=
  if e.running then
    let x := io.cls c.cls
    io.setCls c.cls
      { x with waiting := foldNotice { code := c, source := src, frame := e.frame, merged := 0, detail0 := d0,
                                       detail1 := d1, detail2 := d2 } x.waiting }
  else io

/-- A notice that is still to be handed: its code, source and details. -/
structure NoticeOut where
  code : Code
  source : Source
  detail0 : Word
  detail1 : Word
  detail2 : Word
  deriving DecidableEq, Repr

/-- Hand notices one after another. -/
def handAll (e : Env) (ns : List NoticeOut) (io : Io) : Io :=
  ns.foldl (fun io n => hand e n.code n.source n.detail0 n.detail1 n.detail2 io) io

/-! ## The station bus port -/

/-- One access reaches the bus: the host's writes that come before it land, and it may end in a bus error. -/
def takeTurn (io : Io) : Bool × Io :=
  match io.turns with
  | [] => (false, io)
  | t :: ts => (t.error, { io with turns := ts, mem := hostWrites t.writes io.mem })

/-- The end of a step in which the part is bus master: the host's remaining writes land. -/
def drain (io : Io) : Io :=
  { io with turns := [], mem := io.turns.foldl (fun m t => hostWrites t.writes m) io.mem }

/-- The part reads a 32-bit word; `none` is a bus error (R187). -/
def readWord (a : Nat) (io : Io) : Option Word × Io :=
  let t := takeTurn io
  (if t.1 then none else some (readMemWord a t.2.mem), t.2)

/-- The part reads a 16-bit word of stored audio; `none` is a bus error. -/
def readHalf (a : Nat) (io : Io) : Option Half × Io :=
  let t := takeTurn io
  (if t.1 then none else some (readMemHalf a t.2.mem), t.2)

/-- The part reads a word and posts READ_FAILED on a bus error (R187). -/
def readReporting (e : Env) (src : Source) (d1 : Word) (a : Nat) (io : Io) : Option Word × Io :=
  let r := readWord a io
  (r.1, if r.1.isNone then hand e .readFailed src (BitVec.ofNat 32 a) d1 0 r.2 else r.2)

/-- The part reads the words of a record, all of them, posting READ_FAILED for each that fails; `none` when any
failed (R180). -/
def readRecord (e : Env) (src : Source) : List Nat → Io → Option (List Word) × Io
  | [], io => (some [], io)
  | a :: as, io =>
    let r := readReporting e src 0 a io
    let rest := readRecord e src as r.2
    (match r.1, rest.1 with
     | some w, some ws => some (w :: ws)
     | _, _ => none, rest.2)

/-- How a word write ended: made, refused by the write window (R186), or failed on the bus (R187). -/
inductive Written
  | made
  | refused
  | failed
  deriving DecidableEq, Repr

/-- The window check of a word write (R186). -/
def inWindow (e : Env) (a : Nat) : Bool := decide (e.lo ≤ a) && decide (a + 4 ≤ e.hi)

/-- The part writes a 32-bit word, after the window check. -/
def writeWord (e : Env) (a : Nat) (w : Word) (io : Io) : Written × Io :=
  if inWindow e a then
    let t := takeTurn io
    if t.1 then (.failed, t.2) else (.made, { t.2 with mem := writeMemWord a w t.2.mem })
  else (.refused, io)

/-- The progress of a record write: whether every word so far was made, and the first word refused. -/
structure RecordWrite where
  made : Bool
  refused : Option Nat
  io : Io
  deriving DecidableEq, Repr

/-- One word of a record write: WRITE_FAILED is posted for a word that fails on the bus (R187). -/
def writeRecordWord (e : Env) (src : Source) (r : RecordWrite) (x : Nat × Word) : RecordWrite :=
  let t := writeWord e x.1 x.2 r.io
  match t.1 with
  | .made => { r with io := t.2 }
  | .refused => { made := false, refused := some (r.refused.getD x.1), io := t.2 }
  | .failed => { r with made := false, io := hand e .writeFailed src (BitVec.ofNat 32 x.1) 0 0 t.2 }

/-- The part writes the words of a record, in order, each checked on its own; one WINDOW_REFUSED is posted for the
whole write, with the address of the first refused word (R186).  It is handed after every WRITE_FAILED of the write,
whichever word came first: the order is the model's choice (assumption 38; R189 leaves it open).  Answers whether every
word was made. -/
def writeRecord (e : Env) (src : Source) (ws : List (Nat × Word)) (io : Io) : Bool × Io :=
  let r := ws.foldl (writeRecordWord e src) { made := true, refused := none, io := io }
  (r.made,
   match r.refused with
   | none => r.io
   | some a => hand e .windowRefused src (BitVec.ofNat 32 a) 0 0 r.io)

/-! ## Seats and streams of a state -/

/-- Replace one seat by a function of it. -/
def State.modSeat (s : State) (k : SeatNo) (f : Seat → Seat) : State :=
  { s with seats := s.seats.set k (f s.seats[k]) }

/-- Replace one stream by a function of it. -/
def State.modStream (s : State) (j : StreamNo) (f : Stream → Stream) : State :=
  { s with streams := s.streams.set j (f s.streams[j]) }

/-- Replace every seat by a function of it. -/
def State.mapSeats (s : State) (f : Seat → Seat) : State :=
  { s with seats := tabulate fun k => f s.seats[k] }

/-- Replace every stream by a function of it. -/
def State.mapStreams (s : State) (f : Stream → Stream) : State :=
  { s with streams := tabulate fun j => f s.streams[j] }

/-- Replace a seat's adopted settings by a function of them. -/
def State.modAdopted (s : State) (k : SeatNo) (f : Settings → Settings) : State :=
  s.modSeat k fun x => { x with adopted := f x.adopted }

/-- Replace what is due to a seat by a function of it. -/
def State.modDue (s : State) (k : SeatNo) (f : Due → Due) : State :=
  s.modSeat k fun x => { x with due := f x.due }

/-- Replace the bus side. -/
def State.setIo (s : State) (io : Io) : State := { s with io := io }

/-- Hand a notice from the state's present frame. -/
def State.hand (s : State) (c : Code) (src : Source) (d0 d1 d2 : Word) : State :=
  s.setIo (Machine.hand s.env c src d0 d1 d2 s.io)

/-- Give the state the host's side of the bus for a step. -/
def State.loadTurns (s : State) (ts : List BusTurn) : State := s.setIo { s.io with turns := ts }

/-- End a step in which the part was bus master. -/
def State.drained (s : State) : State := s.setIo (drain s.io)

/-- A seat number as a word, for notices. -/
def seatWord (k : SeatNo) : Word := BitVec.ofNat 32 k.val

/-- The sum of a number and an address, modulo 2^32 (R91, R111). -/
def sampleAddress (start : Word) (index : Nat) : Nat := (start + BitVec.ofNat 32 (2 * index)).toNat

/-- An audio address with its lowest bit taken as 0 (R91, R111). -/
def evenAddress (a : Word) : Word := a &&& 0xFFFFFFFE#32

end Sys2Proof.Machine
end

