-- ==== Sys2Proof/Machine/Operands.lean ====
section
/-! DEFINITION. The fields of the records and registers, at the bit positions of Chapter 12, and the encodings of
enumerated values (R200).  Reading a record and writing one use the same positions. -/

namespace Sys2Proof.Machine

/-! ## Fields -/

/-- The unsigned field of `len` bits whose lowest bit is `lo` (R200). -/
def field (w : Word) (lo len : Nat) : Nat := (w.extractLsb' lo len).toNat

/-- A word built of numbers at bit positions, every other bit 0 (R200). -/
def pack (fs : List (Nat × Nat)) : Word :=
  fs.foldl (fun w f => w ||| (BitVec.ofNat 32 f.2 <<< f.1)) 0

/-- A flag as a number. -/
def flagNat (b : Bool) : Nat := if b then 1 else 0

/-- Word number `i` of a list of words; a record is always read whole, so the default is never met. -/
def wordAt (ws : List Word) (i : Nat) : Word := ws.getD i 0

/-! ## Enumerated values -/

/-- The mode encodings (Table 12-10). -/
def Mode.encode : Mode → Nat
  | .idle => 0
  | .talk => 1
  | .hold => 2
  | .supervise => 3

/-- The mode a value stands for; `none` is BAD_MODE (Table 1-6). -/
def decodeMode : Nat → Option Mode
  | 0 => some .idle
  | 1 => some .talk
  | 2 => some .hold
  | 3 => some .supervise
  | _ => none

/-- The kind a value stands for; `none` is BAD_MODE in SUPERVISE (Table 1-6). -/
def decodeKind : Nat → Option Kind
  | 0 => some .listen
  | 1 => some .whisper
  | 2 => some .barge
  | _ => none

/-- The canceller states of a seat report (Table 12-12). -/
def EcState.encode : EcState → Nat
  | .off => 0
  | .converging => 1
  | .tracking => 2

/-- The cadence phases of a seat report (Table 12-12). -/
def Phase.encode : Phase → Nat
  | .stopped => 0
  | .on => 1
  | .off => 2

/-- The cue cell states (Table 12-9). -/
def CellState.encode : CellState → Nat
  | .empty => 0
  | .posted => 1
  | .playing => 2
  | .paused => 3
  | .done => 4

/-- The state a cell's state word holds; a value that is none of the five encodings is taken as EMPTY (R112). -/
def decodeCell (w : Word) : CellState :=
  match field w 0 8 with
  | 1 => .posted
  | 2 => .playing
  | 3 => .paused
  | 4 => .done
  | _ => .empty

/-- The prompt results (Table 12-9). -/
def Result.encode : Result → Nat
  | .played => 1
  | .cancelled => 2
  | .failed => 3
  | .abandoned => 4
  | .withdrawn => 5

/-- A cell's state word: the state in bits 7..0 and the result in bits 15..8 (Table 12-9). -/
def cellWord (s : CellState) (r : Nat) : Word := pack [(0, s.encode), (8, r)]

/-- The stream states of a stream report (Table 12-4). -/
def StreamState.encode : StreamState → Nat
  | .disabled => 0
  | .waiting => 1
  | .running => 2
  | .starved => 3

/-- The segments (Table 12-13); 0 is none. -/
def Segment.encode : Segment → Nat
  | .a => 1
  | .b => 2

/-- The lock states of STATUS (Table 12-1). -/
def Lock.encode : Lock → Nat
  | .down => 0
  | .hunt => 1
  | .locked => 2

/-- The class numbers (Table 12-5). -/
def NoticeClass.number : NoticeClass → Nat
  | .seat => 0
  | .stream => 1
  | .prompt => 2
  | .highway => 3
  | .fault => 4
  | .supervision => 5

/-- The classes in class-number order. -/
def classes : List NoticeClass := [.seat, .stream, .prompt, .highway, .fault, .supervision]

/-- The code numbers, counted from 1 in each class (Table 12-5). -/
def Code.number : Code → Nat
  | .headsetOn => 1
  | .headsetOff => 2
  | .muteKey => 3
  | .talkKey => 4
  | .ecTracking => 5
  | .ecLost => 6
  | .poolShort => 7
  | .supervisorDetached => 8
  | .segmentDone => 1
  | .segmentLeft => 2
  | .starved => 3
  | .promptDone => 1
  | .locked => 1
  | .lost => 2
  | .slip => 3
  | .checkStorm => 4
  | .settingsRejected => 1
  | .readFailed => 2
  | .writeFailed => 3
  | .windowRefused => 4
  | .badSegment => 5
  | .tickLate => 1
  | .standaloneEntered => 2
  | .resumed => 3

/-- The source word of a notice slot (Table 12-6). -/
def Source.word : Source → Word
  | .seat k => BitVec.ofNat 32 k.val
  | .stream j => BitVec.ofNat 32 (0x100 + j.val)
  | .header => 0x200
  | .network => 0x300
  | .tickMonitor => 0x400
  | .noticeUnit => 0x500

/-- The refusal reasons (Table 12-11). -/
inductive Reason
  | badMode
  | slotRange
  | slotTaken
  | streamRange
  | targetInvalid
  | targetIdle
  | targetFull
  | hasSupervisors
  | tailRange
  | delayRange
  | cellRange
  deriving DecidableEq, Repr

/-- The encodings of the refusal reasons (Table 12-11). -/
def Reason.encode : Reason → Nat
  | .badMode => 1
  | .slotRange => 2
  | .slotTaken => 3
  | .streamRange => 4
  | .targetInvalid => 5
  | .targetIdle => 6
  | .targetFull => 7
  | .hasSupervisors => 8
  | .tailRange => 9
  | .delayRange => 10
  | .cellRange => 11

/-! ## The header (Table 12-2) -/

/-- The addresses of the header's words that a header adoption reads: every word but the edition and the two tick
words, which are not adopted by edition. -/
def headerWords (area : Nat) : List Nat :=
  [0x00, 0x08, 0x0C, 0x10, 0x14, 0x18, 0x1C, 0x20].map (area + Config.headerAt + ·)

/-- The clamp of a highway's divider fields (R157); `fewest` is the fewest bits the highway's slots need. -/
def clampDivider (div : Nat) (odd : Bool) (len fewest : Nat) : Divider :=
  { div := clamp 1 255 div, odd := odd, len := max fewest (clamp 256 4096 len) }

/-- The bits the slots of a Network Highway need (R157). -/
def netBits (narrow check : Bool) : Nat := (if check then 33 else 32) * (if narrow then 16 else 32)

/-- The fields of a header, brought into range (Table 10-3, R157, R161, R181, R195). -/
structure HeaderRecord where
  layout : Word
  seats : Nat
  sh : Divider
  nh : NetSettings
  period : Nat
  deriving DecidableEq, Repr

/-- The host tick period brought into range: 0, or 20..4000 (R195). -/
def clampPeriod (t : Nat) : Nat := if t = 0 then 0 else clamp 20 4000 t

/-- The header in the words of `headerWords`. -/
def parseHeader (ws : List Word) : HeaderRecord :=
  let shDiv := wordAt ws 2
  let flags := wordAt ws 4
  let nhDiv := wordAt ws 5
  let narrow := flags.getLsbD 2
  let check := flags.getLsbD 4
  { layout := wordAt ws 0
    seats := clamp 1 32 (wordAt ws 1).toNat
    sh := clampDivider (field shDiv 0 16) (shDiv.getLsbD 16) (field (wordAt ws 3) 0 16) 1024
    nh :=
      { enable := flags.getLsbD 0
        lead := flags.getLsbD 1
        narrow := narrow
        span := flags.getLsbD 3
        check := check
        divider := clampDivider (field nhDiv 0 16) (nhDiv.getLsbD 16) (field (wordAt ws 6) 0 16)
          (netBits narrow check) }
    period := clampPeriod (wordAt ws 7).toNat }

/-! ## Seat control blocks (Table 12-10) -/

/-- The address of a seat's control block. -/
def seatBlockAt (area : Nat) (k : SeatNo) : Nat := area + Config.seatsAt + 128 * k.val

/-- The addresses of the words of a seat control block but its edition, 04h to 58h. -/
def seatWords (area : Nat) (k : SeatNo) : List Nat :=
  (List.range 22).map fun i => seatBlockAt area k + 4 + 4 * i

/-- The ROUTING fields as written (Table 12-10). -/
structure RoutingRecord where
  mode : Nat
  nhSlot : Nat
  holdStream : Nat
  target : Nat
  kind : Nat
  pushToTalk : Bool
  hostMute : Bool
  keyMuteAllowed : Bool
  deriving DecidableEq, Repr

/-- The fields of a seat control block: ROUTING and the checked ECHO fields as written, the rest clamped. -/
structure SeatRecord where
  namesRouting : Bool
  namesEcho : Bool
  namesNoise : Bool
  namesLevels : Bool
  namesCadence : Bool
  namesCancel : Bool
  routing : RoutingRecord
  echo : Echo
  clearTaps : Bool
  noise : Noise
  levels : Levels
  cadence : Cadence
  restart : Bool
  cancelAll : Bool
  /-- cancel_cell as written; 255 is none. -/
  cancelCell : Nat
  deriving DecidableEq, Repr

/-- The ROUTING words of a block. -/
def parseRouting (w08 w0C : Word) : RoutingRecord :=
  { mode := field w08 0 8
    nhSlot := field w08 8 8
    holdStream := field w08 16 8
    target := field w08 24 8
    kind := field w0C 0 8
    pushToTalk := w0C.getLsbD 8
    hostMute := w0C.getLsbD 9
    keyMuteAllowed := w0C.getLsbD 10 }

/-- The ECHO words of a block; the clamped fields clamped (R45), the checked ones as written (R44). -/
def parseEcho (w10 w14 w18 w1C w20 : Word) : Echo :=
  { enable := w10.getLsbD 0
    hostFreeze := w10.getLsbD 1
    tailRequest := field w14 0 8
    tailFloor := field w14 8 8
    stepShift := clamp 1 15 (field w14 16 8)
    talkRatioShift := clamp 1 3 (field w14 24 8)
    bulkDelay := field w18 0 16
    talkHangover := clamp 0 100 (field w18 16 8)
    residualGain := clamp 0 16384 (field w1C 0 16)
    referenceFloor := clamp 0 2147483647 w20.toNat }

/-- Two gain_table entries of a word, the lower-numbered in bits 15..0 (Table 12-10). -/
def parseGains (w : Word) : List Nat := [clamp 0 16384 (field w 0 16), clamp 0 16384 (field w 16 16)]

/-- The NOISE words of a block, clamped (R65). -/
def parseNoise (w24 w28 w2C w30 w34 w38 : Word) : Noise :=
  let gains := parseGains w2C ++ parseGains w30 ++ parseGains w34 ++ parseGains w38
  { enable := w24.getLsbD 0
    floorRiseShift := clamp 4 12 (field w24 8 8)
    vadBand := clamp 1 7 (field w24 16 8)
    vadHangover := clamp 0 255 (field w24 24 8)
    releaseStep := clamp 1 16384 (field w28 0 16)
    gainTable := tabulate fun i => gains.getD i.val 0 }

/-- The LEVELS words of a block, clamped (R149). -/
def parseLevels (w3C w40 w44 w48 : Word) : Levels :=
  { mic := clamp 0 32767 (field w3C 0 16)
    cust := clamp 0 32767 (field w3C 16 16)
    side := clamp 0 32767 (field w40 0 16)
    whisper := clamp 0 32767 (field w40 16 16)
    hold := clamp 0 32767 (field w44 0 16)
    listen := clamp 0 32767 (field w44 16 16)
    barge := clamp 0 32767 (field w48 0 16)
    duck := clamp 0 16384 (field w48 16 16) }

/-- The CADENCE words of a block, clamped (R137). -/
def parseCadence (w4C w50 w54 : Word) : Cadence :=
  { reminderEnable := w4C.getLsbD 0
    single := w4C.getLsbD 1
    halfPeriod := clamp 4 200 (field w4C 8 8)
    amplitude := clamp 0 32767 (field w50 0 16)
    onFrames := clamp 1 400 (field w50 16 16)
    offFrames := clamp 0 4000 (field w54 0 16) }

/-- The seat control block in the words of `seatWords`: word number `i` is the one at offset 4 + 4 × i. -/
def parseSeat (ws : List Word) : SeatRecord :=
  let w := wordAt ws
  { namesRouting := (w 0).getLsbD 0
    namesEcho := (w 0).getLsbD 1
    namesNoise := (w 0).getLsbD 2
    namesLevels := (w 0).getLsbD 3
    namesCadence := (w 0).getLsbD 4
    namesCancel := (w 0).getLsbD 5
    routing := parseRouting (w 1) (w 2)
    echo := parseEcho (w 3) (w 4) (w 5) (w 6) (w 7)
    clearTaps := (w 3).getLsbD 2
    noise := parseNoise (w 8) (w 9) (w 10) (w 11) (w 12) (w 13)
    levels := parseLevels (w 14) (w 15) (w 16) (w 17)
    cadence := parseCadence (w 18) (w 19) (w 20)
    restart := (w 18).getLsbD 2
    cancelAll := (w 21).getLsbD 0
    cancelCell := field (w 21) 8 8 }

/-! ## The settings words of a seat report (Table 12-12)

The words repeat the layout of the control block words they are named by. -/

/-- Block 14h to 20h. -/
def echoWords (x : Echo) : List Word :=
  [pack [(0, x.tailRequest), (8, x.tailFloor), (16, x.stepShift), (24, x.talkRatioShift)],
   pack [(0, x.bulkDelay), (16, x.talkHangover)], pack [(0, x.residualGain)], pack [(0, x.referenceFloor)]]

/-- Two gain_table entries as a word. -/
def gainWord (t : Vector Nat 8) (i j : Fin 8) : Word := pack [(0, t[i]), (16, t[j])]

/-- Block 24h to 38h. -/
def noiseWords (x : Noise) : List Word :=
  [pack [(0, flagNat x.enable), (8, x.floorRiseShift), (16, x.vadBand), (24, x.vadHangover)],
   pack [(0, x.releaseStep)], gainWord x.gainTable 0 1, gainWord x.gainTable 2 3, gainWord x.gainTable 4 5,
   gainWord x.gainTable 6 7]

/-- Block 3Ch to 48h. -/
def levelWords (x : Levels) : List Word :=
  [pack [(0, x.mic), (16, x.cust)], pack [(0, x.side), (16, x.whisper)], pack [(0, x.hold), (16, x.listen)],
   pack [(0, x.barge), (16, x.duck)]]

/-- Block 4Ch to 54h, with the restart bit 0. -/
def cadenceWords (x : Cadence) : List Word :=
  [pack [(0, flagNat x.reminderEnable), (1, flagNat x.single), (8, x.halfPeriod)],
   pack [(0, x.amplitude), (16, x.onFrames)], pack [(0, x.offFrames)]]

/-! ## Streams, clips and cells -/

/-- The address of a stream entry (Table 12-3). -/
def streamAt (area : Nat) (j : StreamNo) : Nat := area + Config.streamsAt + 32 * j.val

/-- The address of a segment's count word. -/
def countAt (area : Nat) (j : StreamNo) : Segment → Nat
  | .a => streamAt area j + 0x0C
  | .b => streamAt area j + 0x14

/-- The address of a segment's address word. -/
def addressAt (area : Nat) (j : StreamNo) : Segment → Nat
  | .a => streamAt area j + 0x10
  | .b => streamAt area j + 0x18

/-- The address of a clip entry (Table 12-8). -/
def clipAt (area : Nat) (n : Nat) : Nat := area + Config.clipsAt + 16 * n

/-- The address of a cue cell (Table 12-9). -/
def cellAt (area : Nat) (k : SeatNo) (c : CellNo) : Nat := area + Config.cellsAt + 64 * k.val + 16 * c.val

/-- The address of a seat report. -/
def seatReportAt (area : Nat) (k : SeatNo) : Nat := area + Config.seatReportsAt + 128 * k.val

/-- The address of a stream report. -/
def streamReportAt (area : Nat) (j : StreamNo) : Nat := area + Config.streamReportsAt + 32 * j.val

/-- The address of a class's notice slot. -/
def slotAt (area : Nat) (c : NoticeClass) : Nat := area + Config.noticesAt + 32 * c.number

end Sys2Proof.Machine
end

