-- ==== Sys2Proof/Machine/Flags.lean ====
section
/-! DEFINITION. The status flags the part shows: the posted flags and the interrupt line (R193), the words a register
read returns (R173, Table 12-1), and the lines of the two highways as bits (R155, R161). -/

namespace Sys2Proof.Machine

/-! ## Posted flags, the interrupt line, and register reads -/

/-- A class is posted while it shows a notice in its slot (R190). -/
def Io.posted (io : Io) (c : NoticeClass) : Bool := (io.cls c).shown.isSome

/-- The interrupt line: at least one class is both posted and enabled (R193). -/
def State.interrupt (s : State) : Bool :=
  classes.any fun c => s.io.posted c && s.regs.enableMask.getLsbD c.number

/-- The six registers (Table 10-1). -/
inductive Reg
  | control
  | status
  | stationBase
  | windowBase
  | windowLimit
  | frame
  deriving DecidableEq, Repr

/-- The CONTROL register as read; SOFT_RESET reads 0. -/
def State.control (s : State) : Word := pack [(0, flagNat s.regs.run), (8, s.regs.enableMask.toNat)]

/-- The posted flags as a number, bit `n` for class number `n`. -/
def Io.postedBits (io : Io) : Nat := (classes.map fun c => flagNat (io.posted c) * 2 ^ c.number).sum

/-- The STATUS register as read (Table 12-1). -/
def State.status (s : State) : Word :=
  pack [(0, flagNat s.running), (1, flagNat s.tick.standalone), (2, flagNat s.header.layoutBad),
    (3, flagNat s.io.windowFault), (8, s.io.postedBits), (16, s.nh.lock.encode)]

/-- What a host read of a register returns (R173). -/
def State.readRegister (s : State) : Reg → Word
  | .control => s.control
  | .status => s.status
  | .stationBase => s.regs.stationBase
  | .windowBase => s.regs.windowBase
  | .windowLimit => s.regs.windowLimit
  | .frame => s.frame

/-! ## The highway lines as bits

A slot is sent most significant bit first (R155, R161); bits after the last used slot are idle, sent as 0. -/

/-- The `width` lowest bits of a word, most significant first. -/
def bitsOf (width : Nat) (w : Word) : List Bool := (List.range width).map fun i => w.getLsbD (width - 1 - i)

/-- A cycle of slots on a line of `len` bits, idle bits 0. -/
def lineBits (len width : Nat) (slots : List Word) : List Bool :=
  let used := slots.flatMap (bitsOf width)
  (used ++ List.replicate (len - used.length) false).take len

/-- The downstream Seat Highway line of the last cycle (R155); held at 0 while the port is DISABLED (R156). -/
def State.seatLine (s : State) : List Bool := lineBits s.sh.current.len 32 s.sh.line.toList

/-- The sync line the Seat Highway Port drives: active for the last bit of each cycle (R155). -/
def State.seatSync (s : State) : List Bool :=
  (List.range s.sh.current.len).map fun i => s.sh.running && (i == s.sh.current.len - 1)

/-- The Network Highway transmit line of the last cycle sent (R161). -/
def State.netLine (s : State) : List Bool :=
  let slots := s.nh.line.toList
  lineBits s.nh.current.divider.len (if s.nh.current.narrow then 16 else 32)
    (if s.nh.current.check then slots else slots.take 32)

/-- The sync line the Network Highway Port drives in LEAD while it is not DOWN, PULSE or SPAN (R161, R162). -/
def State.netSync (s : State) : List Bool :=
  let len := s.nh.current.divider.len
  (List.range len).map fun i =>
    s.nh.current.lead && (decide (s.nh.lock ≠ .down) || s.nh.leadStart) &&
      (if s.nh.current.span then decide (i < if s.nh.current.narrow then 16 else 32) else i == len - 1)

/-- The divisor of the reference clock that gives a led highway's bit clock (R157). -/
def Divider.divisor (d : Divider) : Nat := 2 * d.div + flagNat d.odd

end Sys2Proof.Machine
end

