-- ==== Sys2Proof/Machine/Canceller.lean ====
section
/-! DEFINITION. One seat's echo canceller through one frame (Chapter 2): the tap window, estimate and error, the talk
comparison, the hold reasons and the update, CUST with residual attenuation, and the state decision at frame end. -/

namespace Sys2Proof.Machine

/-! ## The tap window (R24, R25) -/

/-- The history at work in a frame, newest sample first: the frame handed in at the end of the frame before, then
the 2048 samples before it (R23).  Entry `m` is the sample stamped `m` before the frame's last timeline sample. -/
def workingHistory (line history : List Sample) : List Sample := line.reverse ++ history

/-- The tap window at sample `i` of the frame: x[n−d], x[n−d−1], … for `taps` taps (R24).  A stamp the history does
not reach reads as 0. -/
def tapWindow (full : List Sample) (delay taps i : Nat) : List Sample :=
  takePad taps (full.drop (Config.frameCycles - 1 - i + delay))

/-- P: the exact sum of the window's squares (R25). -/
def windowPower (w : List Sample) : Nat := (w.map fun x => x.natAbs * x.natAbs).sum

/-- M: the largest absolute value in the window (R25). -/
def windowLevel (w : List Sample) : Nat := w.foldl (fun m x => max m x.natAbs) 0

/-! ## One sample (R26 to R29) -/

/-- The estimate ŷ from the taps before any update (R26). -/
def estimate (taps : List Int) (w : List Sample) : Sample :=
  saturate (((List.zipWith (· * ·) taps w).sum + 4194304) / 8388608)

/-- g of the update: the quotient truncated toward zero, then clamped (R29). -/
def stepGain (shift : Nat) (err : Sample) (power : Nat) : Int :=
  max (-2147483648) (min 2147483647 ((err * 2 ^ (31 - shift)).tdiv (power + 65536)))

/-- One tap's update, saturated (R29). -/
def updateTap (g h : Int) (x : Sample) : Int := max (-8388608) (min 8388607 (h + (g * x + 128) / 256))

/-- The canceller's progress through the samples of a frame. -/
structure EcRun where
  taps : List Int
  talk : Nat
  power : Nat
  level : Nat
  /-- DOUBLE_TALK held at some sample so far. -/
  doubleTalk : Bool
  /-- LOW_REFERENCE held at some sample so far. -/
  lowReference : Bool
  /-- e, newest sample first. -/
  errors : List Sample
  deriving DecidableEq, Repr

/-- Whether the talk comparison fires (R27). -/
def talkFires (ratioShift : Nat) (y : Sample) (level : Nat) : Bool := decide (level < y.natAbs * 2 ^ ratioShift)

/-- The double-talk count after a sample (R27). -/
def nextTalk (hangover : Nat) (fires : Bool) (talk : Nat) : Nat :=
  if fires then Config.frameCycles * hangover else talk - 1

/-- Sample `i` of a frame in which the canceller is CONVERGING or TRACKING (R26 to R29). -/
def ecSample (e : Echo) (fault : Bool) (full : List Sample) (r : EcRun) (y : Nat × Sample) : EcRun :=
  let w := tapWindow full e.bulkDelay r.taps.length y.1
  let power := windowPower w
  let level := windowLevel w
  let err := saturate (y.2 - estimate r.taps w)
  let fires := talkFires e.talkRatioShift y.2 level
  let doubleTalk := fires || decide (0 < r.talk)
  let low := decide (power < e.referenceFloor)
  let held := doubleTalk || e.hostFreeze || low || fault
  { taps := if held then r.taps else List.zipWith (updateTap (stepGain e.stepShift err power)) r.taps w
    talk := nextTalk e.talkHangover fires r.talk
    power := power
    level := level
    doubleTalk := r.doubleTalk || doubleTalk
    lowReference := r.lowReference || low
    errors := err :: r.errors }

/-! ## The frame -/

/-- The canceller's samples of a frame (R26 to R30).  `active` says that the seat is in TALK or HOLD; `line` is the
frame whose samples are transmitted in this frame.  Answers the canceller with the frame figures of R32 and the
hold reasons of R28, and CUST before residual attenuation.  In OFF the window has no samples: P and M are stored as 0,
the model's choice where R25 gives M of no samples no value (assumption 39). -/
def cancelFrame (e : Echo) (active fault : Bool) (line y : List Sample) (c : Canceller) :
    Canceller × List Sample :=
  let full := workingHistory line c.history
  let history := takePad Config.historyLength full
  let reference := takePad Config.frameCycles (full.drop e.bulkDelay)
  match c.state with
  | .off =>
    ({ c with
        history := history
        power := 0
        level := 0
        ex := if active then meanSquare reference else 0
        ey := if active then meanSquare y else 0
        ee := if active then meanSquare y else 0
        reasons := .none }, y)
  | _ =>
    let r := (y.mapIdx fun i v => (i, v)).foldl (ecSample e fault full)
      { taps := c.taps, talk := c.talk, power := c.power, level := c.level, doubleTalk := false,
        lowReference := false, errors := [] }
    let errors := r.errors.reverse
    ({ c with
        taps := r.taps
        talk := r.talk
        history := history
        power := r.power
        level := r.level
        ex := if active then meanSquare reference else 0
        ey := if active then meanSquare y else 0
        ee := if active then meanSquare errors else 0
        reasons := { doubleTalk := r.doubleTalk, hostFreeze := e.hostFreeze, lowReference := r.lowReference,
                     networkFault := fault } }, errors)

/-- Residual attenuation of a frame's CUST (R31): `tracking` is the state at the start of the frame. -/
def residual (e : Echo) (tracking voice doubleTalk : Bool) (cust : List Sample) : List Sample :=
  if tracking && voice && !doubleTalk then cust.map fun x => mulRound x e.residualGain else cust

/-- Whether any hold reason held. -/
def HoldReasons.any (h : HoldReasons) : Bool := h.doubleTalk || h.hostFreeze || h.lowReference || h.networkFault

/-- Whether the frame qualifies (R32). -/
def Canceller.qualifies (c : Canceller) : Bool :=
  decide (c.state ≠ .off) && !c.reasons.any && decide (0 < c.ey)

/-- The state decision at the end of a frame (R33); `held` is the number of blocks, for the notice. -/
def decideState (k : SeatNo) (held : Nat) (c : Canceller) : Canceller × List NoticeOut :=
  let post (code : Code) : List NoticeOut := [⟨code, .seat k, BitVec.ofNat 32 held, 0, 0⟩]
  if c.qualifies then
    match c.state with
    | .off => (c, [])
    | .converging =>
      if 8 * c.ee ≤ c.ey then
        if 40 ≤ c.convergenceRun + 1 then
          ({ c with state := .tracking, convergenceRun := 0, lossRun := 0 }, post .ecTracking)
        else ({ c with convergenceRun := c.convergenceRun + 1 }, [])
      else ({ c with convergenceRun := 0 }, [])
    | .tracking =>
      if c.ey ≤ c.ee then
        if 100 ≤ c.lossRun + 1 then
          ({ c with state := .converging, convergenceRun := 0, lossRun := 0 }, post .ecLost)
        else ({ c with lossRun := c.lossRun + 1 }, [])
      else ({ c with lossRun := 0 }, [])
  else (c, [])

/-! ## Between frames (R34, R35, R43) -/

/-- The canceller taking up, when a frame opens, what the scan of the frame before did to its blocks: `blocks` is the
number of blocks it now holds, `zero` a restart that zeroes every tap. -/
def promoteCanceller (blocks : Nat) (zero : Bool) (c : Canceller) : Canceller :=
  let taps := blocks * Config.blockTaps
  if blocks = 0 then
    if c.state = .off then c
    else { c with state := .off, taps := [], talk := 0, convergenceRun := 0, lossRun := 0 }
  else if c.state = .off then
    { c with state := .converging, taps := List.replicate taps 0, convergenceRun := 0, lossRun := 0 }
  else if zero then
    { c with state := .converging, taps := List.replicate taps 0, convergenceRun := 0, lossRun := 0 }
  else if c.taps.length = taps then c
  else { c with state := .converging, taps := takePad taps c.taps, convergenceRun := 0, lossRun := 0 }

/-- The canceller's part of RUN 0→1 (R50): the history zeroed, P and M formed anew over it, the double-talk
count 0. -/
def resumeCanceller (c : Canceller) : Canceller :=
  { c with history := zeroHistory, power := 0, level := 0, talk := 0 }

/-- A canceller coming into service (R1): zeroed history and counts; its state, OFF since it left service. -/
def enterServiceCanceller (c : Canceller) : Canceller :=
  { c with history := zeroHistory, power := 0, level := 0, talk := 0, convergenceRun := 0, lossRun := 0, ex := 0,
           ey := 0, ee := 0 }

end Sys2Proof.Machine
end

