-- ==== Sys2Proof/Machine/Arbiter.lean ====
section
/-! DEFINITION. One seat's whisper arbiter through one frame (Chapter 4): voice gates, the quiet count and the prompt
ruling, the whisper path, and the duck ramp. -/

namespace Sys2Proof.Machine

/-- A gate: an entry of the governing list with the supervisor's kept results of the frame before, and whether the
gate is on. -/
structure Gate where
  entry : Attachment
  kept : Kept
  on : Bool
  deriving DecidableEq, Repr

/-- Whether an entry's gate is on (R76). -/
def gateOn (a : Attachment) (k : Kept) : Bool :=
  match a.kind with
  | .listen => false
  | _ => k.voice && (!a.pushToTalk || k.talkKey)

/-- The gates of a frame; `kept` gives each seat's kept results of the frame before (R76). -/
def gatesOf (kept : SeatNo → Kept) (list : List Attachment) : List Gate :=
  list.map fun a => { entry := a, kept := kept a.seat, on := gateOn a (kept a.seat) }

/-- Whether any gate is on. -/
def anyGate (gs : List Gate) : Bool := gs.any Gate.on

/-- The quiet count after a frame (R82). -/
def nextQuiet (gate : Bool) (q : Nat) : Nat := if gate then 0 else if q < 20 then q + 1 else 20

/-- The prompt ruling of a frame: whether the first cell plays, by q at the end of the frame before and the gates of
this one (R82). -/
def ruling (gate : Bool) (q : Nat) : Bool := decide (q = 20) && !gate

/-- The sent voices of the gates that are on and whose entry passes a test. -/
def gatedVoices (gs : List Gate) (p : Attachment → Bool) : List (List Sample) :=
  (gs.filter fun g => g.on && p g.entry).map fun g => g.kept.sent

/-- The whisper path: the exact sum of the gated voices and the prompt's samples when it plays (R77). -/
def whisperPath (gs : List Gate) (prompt : Option (List Sample)) : List Int :=
  (gatedVoices gs (fun _ => true) ++ prompt.toList).foldl addFrames silence

/-- The barge voices of a frame (R79). -/
def bargeVoices (gs : List Gate) : List (List Sample) := gatedVoices gs fun a => decide (a.kind = .barge)

/-- The target duck value of a frame (R80). -/
def duckTarget (active : Bool) (duckGain : Nat) : Nat := if active then duckGain else Config.unity

/-- The effective gain of CUST at sample `i` (R81). -/
def effectiveGain (custGain old new i : Nat) : Int := roundUnity (custGain * rampAt old new i)

end Sys2Proof.Machine
end

