-- ==== Sys2Proof/Machine/Mixer.lean ====
section
/-! DEFINITION. The Seat Mixer (8.3, 8.4): exact sums, one rounding and one saturation, clip counts. -/

namespace Sys2Proof.Machine

/-- A term of a bus: source samples each multiplied exactly by one gain (R145). -/
def term (xs : List Int) (gain : Nat) : List Int := xs.map (· * (gain : Int))

/-- The customer term, each sample by its effective gain (R81, R147). -/
def custTerm (cust : List Sample) (custGain duckOld duckNew : Nat) : List Int :=
  cust.mapIdx fun i x => x * effectiveGain custGain duckOld duckNew i

/-- The exact sums S of a bus, sample by sample (R145). -/
def busSums (terms : List (List Int)) : List Int := terms.foldl addFrames silence

/-- A bus sample from its sum: rounded, then saturated (R146). -/
def busSample (S : Int) : Sample := saturate (roundUnity S)

/-- Whether a bus sample is saturated: its quotient lay outside the sample range (R146). -/
def clipped (S : Int) : Bool := decide (roundUnity S < -32768) || decide (32767 < roundUnity S)

/-- A clip count after a frame of sums: one more for each saturated sample, stopping at the top (R148). -/
def nextClips (sums : List Int) (count : Nat) : Nat := min Config.countTop (count + sums.countP clipped)

end Sys2Proof.Machine
end

