-- ==== Sys2Proof/Machine/Playout.lean ====
section
/-! DEFINITION. The Playout Engine (Chapter 5): segment reads, the fetch of a frame, write-backs and owed final
writes, listener counts, stream adoption, and the stream report. -/

namespace Sys2Proof.Machine

/-- The other segment of a stream. -/
def Segment.other : Segment → Segment
  | .a => .b
  | .b => .a

/-- A segment as a notice's detail word (Table 12-7). -/
def Segment.word (g : Segment) : Word := BitVec.ofNat 32 g.encode

/-- The owed final write of a segment (R105). -/
def Stream.owed (st : Stream) : Segment → Option Word
  | .a => st.owedA
  | .b => st.owedB

/-- Set or clear the owed final write of a segment. -/
def Stream.setOwed (st : Stream) (g : Segment) (x : Option Word) : Stream :=
  match g with
  | .a => { st with owedA := x }
  | .b => { st with owedB := x }

/-- The bad-seen mark of a segment (R91). -/
def Stream.bad (st : Stream) : Segment → Bool
  | .a => st.badA
  | .b => st.badB

/-- Set or clear the bad-seen mark of a segment. -/
def Stream.setBad (st : Stream) (g : Segment) (x : Bool) : Stream :=
  match g with
  | .a => { st with badA := x }
  | .b => { st with badB := x }

/-! ## Listeners (R92) -/

/-- A stream's listener count rises by 1: a WAITING stream whose count was 0 becomes RUNNING. -/
def joinStream (st : Stream) : Stream :=
  { st with listeners := st.listeners + 1,
            state := if st.state = .waiting ∧ st.listeners = 0 then .running else st.state }

/-- A stream's listener count falls by 1: a RUNNING or STARVED stream left with none becomes WAITING. -/
def leaveStream (st : Stream) : Stream :=
  { st with listeners := st.listeners - 1,
            state := if (st.state = .running ∨ st.state = .starved) ∧ st.listeners ≤ 1 then .waiting else st.state }

/-! ## Stream adoption (R89, R93, R94) -/

/-- Enabling a DISABLED stream (R93). -/
def enableStream (st : Stream) : Stream :=
  { st with enable := true, position := none, badA := false, badB := false, framesStarved := 0,
            state := if 0 < st.listeners then .running else .waiting }

/-- Disabling a stream (R94). -/
def disableStream (st : Stream) : Stream :=
  { st with enable := false, position := none, owedA := none, owedB := none, state := .disabled }

/-- A stream's control words adopted, with the record's edition (R89). -/
def adoptStream (edition : Word) (enable narrow : Bool) (st : Stream) : Stream :=
  let st := { st with edition := some edition, narrow := narrow }
  if enable = st.enable then st else if enable then enableStream st else disableStream st

/-! ## Reading a segment (R90, R91, R104) -/

/-- A fetch in progress: the stream with its moving position, the bus side, whether a read of this fetch has failed,
whether a sample read has, the one-shot segments that ended earlier in this fetch (R99), and the source samples
consumed, newest first. -/
structure Fetch where
  stream : Stream
  io : Io
  failed : Bool
  silent : Bool
  ended : List Segment
  out : List Sample
  deriving DecidableEq, Repr

/-- What a read of a segment's count and address finds. -/
inductive SegmentRead
  /-- Not playable; the flag says that the read of the count word failed. -/
  | unplayable (countFailed : Bool)
  | playable (p : Position)
  deriving DecidableEq, Repr

/-- Hand a STREAM or FAULT notice of the fetch. -/
def Fetch.post (e : Env) (j : StreamNo) (c : Code) (d0 d1 : Word) (f : Fetch) : Fetch :=
  { f with io := hand e c (.stream j) d0 d1 0 f.io }

/-- A read of the fetch has failed: one READ_FAILED per fetch, with the first failed address (R104). -/
def Fetch.failure (e : Env) (j : StreamNo) (g : Segment) (a : Nat) (f : Fetch) : Fetch :=
  if f.failed then f else { f.post e j .readFailed (BitVec.ofNat 32 a) g.word with failed := true }

/-- Whether a count word is bad (R91). -/
def badCount (count : Word) : Bool :=
  decide ((Config.longest : Int) < count.toInt) || decide (count.toInt < -(Config.longest : Int))

/-- The position that entering a segment gives, for a count that is not bad (R95); `none` for count 0. -/
def enterSegment (g : Segment) (count address : Word) : Option Position :=
  if count.toInt = 0 then none
  else if 0 < count.toInt then some (.oneShot g count.toInt.toNat (evenAddress address))
  else some (.loop g (evenAddress address) count.toInt.natAbs 0)

/-- The count and address of a segment have been read without a failure (R91, R95). -/
def judgeSegment (e : Env) (j : StreamNo) (g : Segment) (count address : Word) (f : Fetch) : SegmentRead × Fetch :=
  if badCount count then
    (.unplayable false,
     if f.stream.bad g then f
     else { f.post e j .badSegment g.word count with stream := f.stream.setBad g true })
  else
    (match enterSegment g count address with
     | some p => .playable p
     | none => .unplayable false,
     { f with stream := f.stream.setBad g false })

/-- Read a segment's count and address (R95, R99, R101, R102), the count first (assumption 30).  A segment that owes its
final write (R105), or that ended earlier in this fetch (R99), is not playable and is not read. -/
def readSegment (e : Env) (j : StreamNo) (g : Segment) (f : Fetch) : SegmentRead × Fetch :=
  if (f.stream.owed g).isSome || f.ended.contains g then (.unplayable false, f)
  else
    let count := readWord (countAt e.area j g) f.io
    let address := readWord (addressAt e.area j g) count.2
    let f := { f with io := address.2 }
    match count.1, address.1 with
    | some c, some a => judgeSegment e j g c a f
    | none, _ => (.unplayable true, f.failure e j g (countAt e.area j g))
    | some _, none => (.unplayable false, f.failure e j g (addressAt e.area j g))

/-! ## Consuming source samples (R97 to R101) -/

/-- Note what the write-back of a one-shot segment will hold, first consumed first (R98). -/
def noteBack (g : Segment) (address : Word) (remaining : Nat) : List WriteBack → List WriteBack
  | [] => [⟨g, address, remaining⟩]
  | b :: bs => if b.segment = g then ⟨g, address, remaining⟩ :: bs else b :: noteBack g address remaining bs

/-- Put the fetch at a position. -/
def Fetch.moveTo (f : Fetch) (p : Option Position) : Fetch := { f with stream := { f.stream with position := p } }

/-- A one-shot segment has ended (R99). -/
def endOneShot (e : Env) (j : StreamNo) (g : Segment) (f : Fetch) : Fetch :=
  let f := { f.post e j .segmentDone g.word 0 with ended := g :: f.ended }
  let r := readSegment e j g.other f
  match r.1 with
  | .playable p => r.2.moveTo (some p)
  | .unplayable _ =>
    let f := (r.2.moveTo none).post e j .starved g.word 0
    { f with stream := { f.stream with state := .starved } }

/-- A pass of a loop segment has ended (R101). -/
def endPass (e : Env) (j : StreamNo) (g : Segment) (start : Word) (length : Nat) (f : Fetch) : Fetch :=
  let r := readSegment e j g.other f
  match r.1 with
  | .playable p => (r.2.moveTo (some p)).post e j .segmentLeft g.word 0
  | .unplayable _ => r.2.moveTo (some (.loop g start length 0))

/-- Read one source sample of a segment; a failed read makes the whole buffer silent (R104). -/
def readSample (e : Env) (j : StreamNo) (g : Segment) (a : Nat) (f : Fetch) : Fetch :=
  let r := readHalf a f.io
  let f := { f with io := r.2 }
  match r.1 with
  | some h => { f with out := h.toInt :: f.out }
  | none => { f.failure e j g a with silent := true, out := 0 :: f.out }

/-- Consume one source sample; a stream that has starved in this fetch gives zeros (R97 to R101). -/
def consume (e : Env) (j : StreamNo) (f : Fetch) : Fetch :=
  match f.stream.position with
  | none => { f with out := 0 :: f.out }
  | some (.oneShot g n a) =>
    let f := readSample e j g a.toNat f
    let f := { f with stream := { f.stream with backs := noteBack g (a + 2) (n - 1) f.stream.backs } }
    let f := f.moveTo (some (.oneShot g (n - 1) (a + 2)))
    if n - 1 = 0 then endOneShot e j g f else f
  | some (.loop g start length cursor) =>
    let f := readSample e j g (sampleAddress start cursor) f
    if length ≤ cursor + 1 then endPass e j g start length f
    else f.moveTo (some (.loop g start length (cursor + 1)))

/-- Consume `n` source samples. -/
def consumeMany (e : Env) (j : StreamNo) : Nat → Fetch → Fetch
  | 0, f => f
  | n + 1, f => consumeMany e j n (consume e j f)

/-- Output samples of source samples: NARROW gives each twice (R97, R118). -/
def spread (narrow : Bool) (xs : List Sample) : List Sample :=
  if narrow then xs.flatMap fun x => [x, x] else xs

/-- The source samples that fill a frame (R97, R118). -/
def frameSource (narrow : Bool) : Nat := if narrow then 40 else 80

/-! ## The fetch of a frame (R95, R96, R102) -/

/-- A start (R95): A's words are read first, then B's (assumption 30); STARVED when neither count is playable and neither
count read failed; another start at the next fetch when a count read failed (R104). -/
def startFetch (e : Env) (j : StreamNo) (f : Fetch) : Fetch :=
  let a := readSegment e j .a f
  let b := readSegment e j .b a.2
  match a.1, b.1 with
  | .playable p, _ => b.2.moveTo (some p)
  | .unplayable _, .playable p => b.2.moveTo (some p)
  | .unplayable x, .unplayable y =>
    if x || y then b.2
    else
      let f := b.2.post e j .starved 0 0
      { f with stream := { f.stream with state := .starved, framesStarved := countUp f.stream.framesStarved } }

/-- The fetch of a RUNNING stream (R96). -/
def fetchRunning (e : Env) (j : StreamNo) (f : Fetch) : Fetch :=
  let f := if f.stream.position.isNone then startFetch e j f else f
  if f.stream.position.isNone then f
  else
    let narrow := f.stream.narrow
    let f := consumeMany e j (frameSource narrow) f
    let buffer := if f.silent then silence else spread narrow f.out.reverse
    { f with stream := { f.stream with buffer := buffer, playing := true } }

/-- The fetch of a STARVED stream: counts only (R102). -/
def fetchStarved (e : Env) (j : StreamNo) (f : Fetch) : Fetch :=
  let a := readSegment e j .a f
  let b := readSegment e j .b a.2
  match a.1, b.1 with
  | .unplayable _, .unplayable _ =>
    { b.2 with stream := { b.2.stream with framesStarved := countUp b.2.stream.framesStarved } }
  | _, _ => { b.2 with stream := { b.2.stream with state := .running, position := none } }

/-- The fetch of one stream in a frame; its buffer is silence, not playing, unless source samples are consumed
(R96). -/
def fetchStream (e : Env) (j : StreamNo) (st : Stream) (io : Io) : Stream × Io :=
  let f : Fetch :=
    { stream := { st with buffer := silence, playing := false, backs := [] }, io := io, failed := false,
      silent := false, ended := [], out := [] }
  let f :=
    match st.state with
    | .disabled | .waiting => f
    | .running => fetchRunning e j f
    | .starved => fetchStarved e j f
  (f.stream, f.io)

/-! ## Write-backs (R98, R105) -/

/-- Write a segment's address word, then its count word (R98). -/
def writeSegment (e : Env) (j : StreamNo) (g : Segment) (address : Word) (count : Nat) (io : Io) : Bool × Io :=
  writeRecord e (.stream j) [(addressAt e.area j g, address), (countAt e.area j g, BitVec.ofNat 32 count)] io

/-- Try an owed final write again (R105). -/
def retryOwed (e : Env) (j : StreamNo) (p : Stream × Io) (g : Segment) : Stream × Io :=
  match p.1.owed g with
  | none => p
  | some a =>
    let r := writeSegment e j g a 0 p.2
    (if r.1 then p.1.setOwed g none else p.1, r.2)

/-- One write-back; a final write that is not made is owed (R105). -/
def writeBackOne (e : Env) (j : StreamNo) (p : Stream × Io) (b : WriteBack) : Stream × Io :=
  let r := writeSegment e j b.segment b.address b.remaining p.2
  (if !r.1 && decide (b.remaining = 0) then p.1.setOwed b.segment (some b.address) else p.1, r.2)

/-- The write-backs of a stream at the end of a frame: owed writes first (R105), segment A's before segment B's
(assumption 29), then those of this frame (R98). -/
def writeBacks (e : Env) (j : StreamNo) (st : Stream) (io : Io) : Stream × Io :=
  let p := [Segment.a, Segment.b].foldl (retryOwed e j) (st, io)
  let q := st.backs.foldl (writeBackOne e j) p
  ({ q.1 with backs := [] }, q.2)

/-! ## The stream report (R107) -/

/-- The current segment of a stream report (Table 12-4). -/
def Stream.segmentNow (st : Stream) : Nat :=
  match st.position with
  | none => 0
  | some (.oneShot g _ _) => g.encode
  | some (.loop g _ _ _) => g.encode

/-- The loop cursor of a stream report. -/
def Stream.cursorNow (st : Stream) : Nat :=
  match st.position with
  | some (.loop _ _ _ c) => c
  | _ => 0

/-- The words of a stream report (Table 12-4), written in rising offset (assumption 31). -/
def streamReport (frame : Word) (st : Stream) : List Word :=
  [frame, st.edition.getD 0, pack [(0, flagNat st.edition.isSome)], pack [(0, st.state.encode)],
   pack [(0, st.segmentNow)], pack [(0, st.cursorNow)], pack [(0, st.listeners)], BitVec.ofNat 32 st.framesStarved]

/-- The words of a record at consecutive addresses. -/
def placed (base : Nat) (ws : List Word) : List (Nat × Word) := ws.mapIdx fun i w => (base + 4 * i, w)

/-- Write a stream's report (R107). -/
def writeStreamReport (e : Env) (j : StreamNo) (st : Stream) (io : Io) : Io :=
  (writeRecord e (.stream j) (placed (streamReportAt e.area j) (streamReport e.frame st)) io).2

/-- RUN 1→0: owed final writes are dropped (R105, R109). -/
def stopStream (st : Stream) : Stream := { st with owedA := none, owedB := none }

/-- RUN 0→1: the prefetch buffer is silence, not playing (R109). -/
def resumeStream (st : Stream) : Stream := { st with buffer := silence, playing := false }

end Sys2Proof.Machine
end

