-- ==== Sys2Proof/Machine/Prompt.lean ====
section
/-! DEFINITION. The Prompt Unit for one seat (Chapter 6): the cell scan, preparation, playing and pausing, and the
cell writes at the end of a frame. -/

namespace Sys2Proof.Machine

/-- A cell number as a notice's detail word. -/
def cellNumber (c : CellNo) : Word := BitVec.ofNat 32 c.val

/-- The cells of a seat in cell-number order. -/
def cells : List CellNo := [0, 1, 2, 3]

/-! ## Removal marks (R114) -/

/-- Give a cue a removal mark; the first mark stands (R115, R124). -/
def Cue.marked (r : Result) (q : Cue) : Cue := { q with mark := some (q.mark.getD r) }

/-- Mark the cues of a play order whose cell passes a test. -/
def PromptUnit.markWhere (p : PromptUnit) (r : Result) (test : CellNo → Bool) : PromptUnit :=
  { p with order := p.order.map fun q => if test q.cell then q.marked r else q }

/-- Mark every cue of a play order: leaving service (R125), stand-alone entry (R126). -/
def PromptUnit.markAll (p : PromptUnit) (r : Result) : PromptUnit := p.markWhere r fun _ => true

/-! ## The cell scan (R113, R115) -/

/-- A cell's state as the scan reads it: a cell in the order is tested against its expected state; a POSTED cell is
appended, and a PLAYING or PAUSED one is stale. -/
def scanState (c : CellNo) (s : CellState) (p : PromptUnit) : PromptUnit :=
  match p.order.find? fun q => q.cell = c with
  | some q => if s = q.expected then p else p.markWhere .withdrawn fun d => d = c
  | none =>
    match s with
    | .posted => { p with order := p.order ++ [{ cell := c, expected := .posted, mark := none }] }
    | .playing | .paused => { p with stale := p.stale ++ [c] }
    | .empty | .done => p

/-- The scan of one cell: a cell whose final write is owed is not read (R121), and a read that fails leaves the cell
as it stood and posts READ_FAILED. -/
def scanCell (e : Env) (k : SeatNo) (x : PromptUnit × Io) (c : CellNo) : PromptUnit × Io :=
  if x.1.owed.any fun o => o.cell = c then x
  else
    let r := readReporting e (.seat k) (cellNumber c) (cellAt e.area k c) x.2
    match r.1 with
    | some w => (scanState c (decodeCell w) x.1, r.2)
    | none => (x.1, r.2)

/-- The cell scan of one seat. -/
def scanCells (e : Env) (k : SeatNo) (p : PromptUnit) (io : Io) : PromptUnit × Io :=
  cells.foldl (scanCell e k) (p, io)

/-! ## Preparation and fetches (R116, R118) -/

/-- Reading a clip's source samples: the samples, newest first, the first address that failed, and the bus side. -/
structure ClipRead where
  samples : List Sample
  failed : Option Nat
  io : Io
  deriving DecidableEq, Repr

/-- Read one source sample of a clip. -/
def readClipSample (start : Word) (r : ClipRead) (index : Nat) : ClipRead :=
  let a := sampleAddress start index
  let h := readHalf a r.io
  match h.1 with
  | some v => { r with samples := v.toInt :: r.samples, io := h.2 }
  | none => { samples := 0 :: r.samples, failed := some (r.failed.getD a), io := h.2 }

/-- The source samples the next buffer takes: a full buffer's, or the remaining ones (R118). -/
def bufferSource (c : Clip) : Nat := min (frameSource c.narrow) (c.length - c.cursor)

/-- What a step of the Prompt Unit's work answers: whether it failed, the unit and the bus side. -/
structure PromptStep where
  failed : Bool
  unit : PromptUnit
  io : Io
  deriving DecidableEq, Repr

/-- Fetch the prefetch buffer from the clip cursor (R118); on a bus error READ_FAILED is posted once, with the first
failed address (R116, R120). -/
def fetchClip (e : Env) (k : SeatNo) (cell : CellNo) (c : Clip) (p : PromptUnit) (io : Io) : PromptStep :=
  let n := bufferSource c
  let r := (List.range n).foldl (fun r i => readClipSample c.address r (c.cursor + i))
    { samples := [], failed := none, io := io }
  match r.failed with
  | some a =>
    { failed := true, unit := p,
      io := hand e .readFailed (.seat k) (BitVec.ofNat 32 a) (cellNumber cell) 0 r.io }
  | none =>
    { failed := false
      unit :=
        { p with buffer := takePad Config.frameCycles (spread c.narrow r.samples.reverse)
                 filled := n
                 last := decide (n < frameSource c.narrow) }
      io := r.io }

/-- The clip entry has been read (R111, R116). -/
def takeClip (e : Env) (k : SeatNo) (cell : CellNo) (address length format : Word) (p : PromptUnit) (io : Io) :
    PromptStep :=
  if length = 0 ∨ Config.longest < length.toNat then { failed := true, unit := p, io := io }
  else
    let c : Clip := { address := evenAddress address, length := length.toNat, narrow := decide (format = 1), cursor := 0 }
    fetchClip e k cell c { p with clip := some c, stage := .ready } io

/-- Read the clip entry a cell names (R116); after a word that fails the rest is not read (assumption 35). -/
def readClipEntry (e : Env) (k : SeatNo) (cell : CellNo) (index : Nat) (p : PromptUnit) (io : Io) : PromptStep :=
  let read := readReporting e (.seat k) (cellNumber cell)
  let a := read (clipAt e.area index) io
  match a.1 with
  | none => { failed := true, unit := p, io := a.2 }
  | some address =>
    let b := read (clipAt e.area index + 4) a.2
    match b.1 with
    | none => { failed := true, unit := p, io := b.2 }
    | some length =>
      let f := read (clipAt e.area index + 8) b.2
      match f.1 with
      | none => { failed := true, unit := p, io := f.2 }
      | some format => takeClip e k cell address length format p f.2

/-- Prepare a first cell (R116); after a word that fails the rest is not read (assumption 35). -/
def prepareCell (e : Env) (k : SeatNo) (cell : CellNo) (p : PromptUnit) (io : Io) : PromptStep :=
  let read := readReporting e (.seat k) (cellNumber cell)
  let p := { p with tag := 0, clip := none }
  let a := read (cellAt e.area k cell + 4) io
  match a.1 with
  | none => { failed := true, unit := p, io := a.2 }
  | some index =>
    let b := read (cellAt e.area k cell + 8) a.2
    match b.1 with
    | none => { failed := true, unit := p, io := b.2 }
    | some tag =>
      let p := { p with tag := tag }
      if 63 < index.toNat then { failed := true, unit := p, io := b.2 }
      else readClipEntry e k cell index.toNat p b.2

/-- Prepare a first cell again after RUN 0→1, from the kept clip record and cursor (R128). -/
def prepareAgain (e : Env) (k : SeatNo) (cell : CellNo) (p : PromptUnit) (io : Io) : PromptStep :=
  match p.clip with
  | none => prepareCell e k cell p io
  | some c => fetchClip e k cell c { p with stage := .ready } io

/-! ## The frame (R117 to R120) -/

/-- Whether the first cell is due to play or be held in this frame: it has started, or was prepared in the frame
before and carries no removal mark (R114, R117). -/
def PromptUnit.due (p : PromptUnit) : Bool :=
  match p.order with
  | [] => false
  | q :: _ =>
    match p.stage with
    | .ready => q.mark.isNone
    | .started => true
    | .fresh | .again => false

/-- What the frame has done to the first cell: how it ended, or the state its cell now shows; with the unit and the
bus side. -/
structure PromptFrame where
  ended : Option Result
  showing : Option CellState
  unit : PromptUnit
  io : Io
  deriving DecidableEq, Repr

/-- The first cell plays its buffer: the cursor advances, and the next buffer is fetched unless this was the last
(R118, R119, R120). -/
def playCell (e : Env) (k : SeatNo) (cell : CellNo) (p : PromptUnit) (io : Io) : PromptFrame :=
  let p := { p with stage := .started, clip := p.clip.map fun c => { c with cursor := c.cursor + p.filled } }
  if p.last then { ended := some .played, showing := none, unit := p, io := io }
  else
    match p.clip with
    | none => { ended := none, showing := some .playing, unit := p, io := io }
    | some c =>
      let r := fetchClip e k cell c p io
      if r.failed then { ended := some .failed, showing := none, unit := r.unit, io := r.io }
      else { ended := none, showing := some .playing, unit := r.unit, io := r.io }

/-- A preparation's outcome: a failure ends the cell as FAILED (R116); its state word is not written otherwise. -/
def PromptStep.outcome (r : PromptStep) : PromptFrame :=
  { ended := if r.failed then some .failed else none, showing := none, unit := r.unit, io := r.io }

/-- The Prompt Unit's work for a seat in a frame; `plays` is the ruling on a first cell that is due.  A first cell that was
prepared or started before a stop and carries a removal mark in the first frame after the resumption is not prepared
again and not heard, and is written DONE at that frame's end (assumption 36, a DEDUCED reading: R128 has it not written in
that frame, and R114, R115, R121 and R124 write a marked cell at its end). -/
def promptFrame (e : Env) (k : SeatNo) (plays : Bool) (p : PromptUnit) (io : Io) : PromptFrame :=
  match p.order with
  | [] => { ended := none, showing := none, unit := p, io := io }
  | q :: _ =>
    if p.due then
      if plays then playCell e k q.cell p io
      else { ended := none, showing := some .paused, unit := { p with stage := .started }, io := io }
    else if q.mark.isSome then { ended := none, showing := none, unit := p, io := io }
    else
      match p.stage with
      | .again => (prepareAgain e k q.cell p io).outcome
      | _ => (prepareCell e k q.cell p io).outcome

/-! ## Cell writes (R121, R122) -/

/-- How a cell is written: finished with a result, or showing the state it has. -/
inductive CellOutcome
  | finished (r : Result)
  | live (s : CellState)
  deriving DecidableEq, Repr

/-- One cell write: samples played (absent for a stale cell), then the state word. -/
structure CellWrite where
  cell : CellNo
  samples : Option Nat
  outcome : CellOutcome
  deriving DecidableEq, Repr

/-- The state word a cell write puts last (Table 12-9). -/
def CellOutcome.word : CellOutcome → Word
  | .finished r => cellWord .done r.encode
  | .live s => cellWord s 0

/-- The words of a cell write: samples played, then the state word. -/
def cellWords (e : Env) (k : SeatNo) (c : CellNo) (samples : Option Nat) (w : Word) : List (Nat × Word) :=
  (samples.map fun n => (cellAt e.area k c + 0x0C, BitVec.ofNat 32 n)).toList ++ [(cellAt e.area k c, w)]

/-- The samples played of the first cell: its clip cursor. -/
def PromptUnit.heard (p : PromptUnit) : Nat := (p.clip.map Clip.cursor).getD 0

/-- The write of one cell at the end of a frame, if it has one (R121).  A removal mark names the result; an
unmarked first cell that ended has the result of its end. -/
def writeOf (f : PromptFrame) (c : CellNo) : Option CellWrite :=
  if f.unit.stale.contains c then some ⟨c, none, .finished .abandoned⟩
  else
    match f.unit.order.find? fun q => q.cell = c with
    | none => none
    | some q =>
      let first := decide ((f.unit.order.head?.map Cue.cell) = some c)
      let samples := if first then f.unit.heard else 0
      match q.mark, first, f.ended, f.showing with
      | some r, _, _, _ => some ⟨c, some samples, .finished r⟩
      | none, true, some r, _ => some ⟨c, some samples, .finished r⟩
      | none, true, none, some s => some ⟨c, some samples, .live s⟩
      | none, _, _, _ => none

/-- Make one cell write.  A live state that is written becomes the expected state (R115); a finished cell posts
PROMPT_DONE for PLAYED and FAILED (R122), and its write is owed if it was not made (R121). -/
def makeWrite (e : Env) (k : SeatNo) (x : PromptUnit × Io) (w : CellWrite) : PromptUnit × Io :=
  let r := writeRecord e (.seat k) (cellWords e k w.cell w.samples w.outcome.word) x.2
  match w.outcome with
  | .live s =>
    (if r.1 then
      { x.1 with order := x.1.order.map fun q => if q.cell = w.cell then { q with expected := s } else q }
     else x.1, r.2)
  | .finished res =>
    (if r.1 then x.1 else { x.1 with owed := x.1.owed ++ [⟨w.cell, res, w.samples⟩] },
     if res = .played ∨ res = .failed then hand e .promptDone (.seat k) (cellNumber w.cell) x.1.tag 0 r.2 else r.2)

/-- The owed DONE writes of a seat in cell-number order, whether the seat is in service (R121) or not (assumption 37, a
DESIGN CHOICE). -/
def PromptUnit.owedInOrder (p : PromptUnit) : List OwedCell :=
  cells.flatMap fun c => p.owed.filter fun o => decide (o.cell = c)

/-- Try an owed DONE write again; it stays owed if it is not made (R121). -/
def retryCell (e : Env) (k : SeatNo) (x : PromptUnit × Io) (o : OwedCell) : PromptUnit × Io :=
  let r := writeRecord e (.seat k) (cellWords e k o.cell o.samples (CellOutcome.finished o.result).word) x.2
  (if r.1 then x.1 else { x.1 with owed := x.1.owed ++ [o] }, r.2)

/-- Try the owed DONE writes of a seat again (R121), in cell-number order: R121 gives that order for a seat in service, and
for one out of service it is the model's choice (assumption 37). -/
def retryCells (e : Env) (k : SeatNo) (p : PromptUnit) (io : Io) : PromptUnit × Io :=
  p.owedInOrder.foldl (retryCell e k) ({ p with owed := [] }, io)

/-- Whether a cell write finishes the cell. -/
def CellWrite.finishes (w : CellWrite) : Bool :=
  match w.outcome with
  | .finished _ => true
  | .live _ => false

/-- Remove finished cells from the play order; a new first cell is not prepared (R114). -/
def removeCells (gone : List CellNo) (p : PromptUnit) : PromptUnit :=
  let order := p.order.filter fun q => !gone.contains q.cell
  if order.head?.map Cue.cell = p.order.head?.map Cue.cell then { p with order := order, stale := [] }
  else
    { p with order := order, stale := [], stage := .fresh, clip := none, buffer := silence, filled := 0, last := false }

/-- The cell writes and removals of a seat at the end of a frame (R121). -/
def endCells (e : Env) (k : SeatNo) (f : PromptFrame) : PromptUnit × Io :=
  let ws := cells.filterMap (writeOf f)
  let r := retryCells e k f.unit f.io
  let x := ws.foldl (makeWrite e k) r
  (removeCells ((ws.filter CellWrite.finishes).map CellWrite.cell) x.1, x.2)

/-- RUN 0→1: the prefetch buffer is discarded, and a prepared or started first cell is prepared again (R128). -/
def resumePrompt (p : PromptUnit) : PromptUnit :=
  { p with buffer := silence, filled := 0, last := false,
           stage := match p.stage with
             | .fresh => .fresh
             | _ => .again }

end Sys2Proof.Machine
end

