-- ==== Sys2Proof/Machine/Suppressor.lean ====
section
/-! DEFINITION. One seat's noise suppressor through one frame (Chapter 3): frame energy and band, target and applied
gain, the gain ramp, the floor update and the voice flag. -/

namespace Sys2Proof.Machine

/-- The band of a frame of energy `E` over floor `F` (R54): 0 below 2 × F, else the largest k in 1..7 with
E ≥ F × 2^k. -/
def bandOf (E F : Nat) : Nat :=
  if E < 2 * F then 0
  else [1, 2, 3, 4, 5, 6, 7].foldl (fun b k => if F * 2 ^ k ≤ E then k else b) 0

/-- The target gain: entry `b` of the gain table (R55). -/
def targetGain (c : Noise) (b : Nat) : Nat := c.gainTable.toList.getD b Config.unity

/-- The new applied gain: attack at once, release by at most release_step (R55). -/
def appliedGain (release target old : Nat) : Nat := if old ≤ target then target else max target (old - release)

/-- The floor update (R58). -/
def nextFloor (shift E F : Nat) : Nat := if E < F then max E 1 else min E (F + F / 2 ^ shift + 1)

/-- One output sample (R57). -/
def suppressSample (x : Sample) (gain : Int) : Sample := roundUnity (x * gain)

/-- A suppressor with the initial values, if they are due (R64). -/
def Suppressor.initialised (s : Suppressor) : Suppressor := if s.initDue then .reset else s

/-- The voice flag and the hangover count after a frame of band `b` (R59). -/
def nextVoice (c : Noise) (b hangover : Nat) : Bool × Nat :=
  if c.vadBand ≤ b then (true, c.vadHangover)
  else if 0 < hangover then (true, hangover - 1)
  else (false, 0)

/-- A frame in which the headset is absent (R62): the floor and gain kept, silence out. -/
def absentFrame (s : Suppressor) : Suppressor × List Sample :=
  ({ s with band := 0, voice := false, hangover := 0, initDue := false }, silence)

/-- A frame the suppressor runs (R52 to R61); answers the suppressor and MIC_out.  The voice flag comes from the
energy of the samples as received, as R53 and R60 say, and not from MIC_out, as R17 says (assumption 28). -/
def presentFrame (c : Noise) (s : Suppressor) (xs : List Sample) : Suppressor × List Sample :=
  let s := s.initialised
  let E := meanSquare xs
  let b := bandOf E s.floor
  let gain := if c.enable then appliedGain c.releaseStep (targetGain c b) s.gain else Config.unity
  let old := if c.enable then s.gain else Config.unity
  let v := nextVoice c b s.hangover
  ({ floor := nextFloor c.floorRiseShift E s.floor, gain := gain, band := b, voice := v.1, hangover := v.2,
     initDue := false },
   xs.mapIdx fun i x => suppressSample x (rampAt old gain i))

/-- One frame of the suppressor (R52, R62). -/
def suppressFrame (c : Noise) (present : Bool) (s : Suppressor) (xs : List Sample) :
    Suppressor × List Sample :=
  if present then presentFrame c s xs else absentFrame s

/-- The suppressor taking up, when a frame opens, what the scan of the frame before did: an entry from IDLE makes the
initial values due (R64).  A change of ns_enable needs nothing here: the first frame that the suppressor runs with
ns_enable 0 sets the applied gain to unity, and until then an absence keeps it (R61, R62, R66; assumption 19). -/
def promoteSuppressor (init : Bool) (s : Suppressor) : Suppressor := { s with initDue := init }

/-- The suppressor's part of RUN 0→1 (R68). -/
def resumeSuppressor (s : Suppressor) : Suppressor := { s with voice := false, hangover := 0 }

end Sys2Proof.Machine
end

