-- ==== Sys2Proof/Machine/Tone.lean ====
section
/-! DEFINITION. One seat's cadence unit through one frame (Chapter 7): the square tone, the phases, the hold reminder
and the fallback tone. -/

namespace Sys2Proof.Machine

/-- The fixed settings of the fallback tone (Table 7-3). -/
def fallbackSettings : Cadence :=
  { reminderEnable := true, halfPeriod := 20, amplitude := 4096, onFrames := 60, offFrames := 600, single := false }

/-- The settings that govern the unit: its user's (R129). -/
def CadenceUnit.settings (u : CadenceUnit) (c : Cadence) : Cadence := if u.fallback then fallbackSettings else c

/-- The tone sample at a position within one period (R129). -/
def toneAt (c : Cadence) (p : Nat) : Sample := if p < c.halfPeriod then c.amplitude else -(c.amplitude : Int)

/-- The position after `n` samples of tone from position `p` (R129). -/
def advancePosition (c : Cadence) (p n : Nat) : Nat := (p + n) % (2 * c.halfPeriod)

/-- A frame of tone from position `p` (R129). -/
def toneFrame (c : Cadence) (p : Nat) : List Sample :=
  (List.range Config.frameCycles).map fun i => toneAt c (advancePosition c p i)

/-- The start of a reminder: OFF, or ON from position 0 when off_frames is 0 (R131). -/
def startReminder (c : Cadence) (u : CadenceUnit) : CadenceUnit :=
  if c.offFrames = 0 then { u with phase := .on, elapsed := 0, position := 0, fallback := false }
  else { u with phase := .off, elapsed := 0, fallback := false }

/-- A reminder stop (R132). -/
def stopReminder (u : CadenceUnit) : CadenceUnit := { u with phase := .stopped, elapsed := 0 }

/-- A fallback use begins (R134). -/
def beginFallback (u : CadenceUnit) : CadenceUnit :=
  { u with phase := .on, elapsed := 0, position := 0, fallback := true }

/-- A fallback use ends (R136): the reminder restarts if the seat is in HOLD with reminder_enable 1. -/
def endFallback (c : Cadence) (inHold : Bool) (u : CadenceUnit) : CadenceUnit :=
  let u := { u with elapsed := 0, position := 0, fallback := false }
  if inHold && c.reminderEnable then startReminder c u else { u with phase := .stopped }

/-- What an adoption made due: a reminder start or stop, else position 0 for a new half_period in ON (R131, R132,
R138). -/
def applyDue (c : Cadence) (u : CadenceUnit) : CadenceUnit :=
  match u.due with
  | some true => startReminder c u
  | some false => stopReminder u
  | none => if u.newPeriod && decide (u.phase = .on) then { u with position := 0 } else u

/-- The unit's user and phase for a frame, settled at the start of its work (R130, R134, R136).  `wanted` says that
the conditions of FALLBACK use hold for the frame. -/
def settleUser (c : Cadence) (wanted inHold : Bool) (u : CadenceUnit) : CadenceUnit :=
  let v :=
    if wanted then (if u.fallback then u else beginFallback u)
    else if u.fallback then endFallback c inHold u
    else applyDue c u
  { v with due := none, newPeriod := false }

/-- The 80 output samples of a frame, and the unit with its position moved (R129). -/
def soundFrame (c : Cadence) (u : CadenceUnit) : CadenceUnit × List Sample :=
  let c := u.settings c
  match u.phase with
  | .on => ({ u with position := advancePosition c u.position Config.frameCycles }, toneFrame c u.position)
  | _ => (u, silence)

/-- An ON phase has ended (R130). -/
def afterOn (c : Cadence) (u : CadenceUnit) : CadenceUnit :=
  if c.single then { u with phase := .stopped, elapsed := 0 }
  else if c.offFrames = 0 then { u with elapsed := 0 }
  else { u with phase := .off, elapsed := 0 }

/-- The end of a frame: the elapsed count rises, and an ended phase gives way to the next (R130, R138). -/
def endPhase (c : Cadence) (u : CadenceUnit) : CadenceUnit :=
  let c := u.settings c
  match u.phase with
  | .stopped => u
  | .on => if c.onFrames ≤ u.elapsed + 1 then afterOn c u else { u with elapsed := u.elapsed + 1 }
  | .off =>
    if c.offFrames ≤ u.elapsed + 1 then { u with phase := .on, elapsed := 0, position := 0 }
    else { u with elapsed := u.elapsed + 1 }

end Sys2Proof.Machine
end

