-- ==== Sys2Proof/Machine/SeatFrame.lean ====
section
/-! DEFINITION. One seat's frame work (8.1): its inputs, the stages of R142 in order, and the seat report. -/

namespace Sys2Proof.Machine

/-! ## Inputs (R142, stage 1) -/

/-- A debounced value, with a completed debounce count taken (R159). -/
def Debounce.settled (d : Debounce) : Debounce := if 16 ≤ d.count then { value := !d.value, count := 0 } else d

/-- The debounced status of a slot as a seat takes it: while PRESENT is 0 the keys are taken as 0 (R14). -/
def takeStatus (x : SlotStatus) : Status :=
  let present := x.present.settled.value
  { present := present, muteKey := present && x.muteKey.settled.value, talkKey := present && x.talkKey.settled.value }

/-- Whether a mode holds a Network Highway slot (Table 1-4). -/
def Mode.holdsSlot : Mode → Bool
  | .talk | .hold => true
  | .idle | .supervise => false

/-- The Network Highway slot a seat with these settings holds (R6). -/
def Settings.slot (g : Settings) : Option Nat := if g.routing.mode.holdsSlot then g.routing.nhSlot else none

/-- What a seat takes from the rest of the part for a frame. -/
structure SeatInputs where
  status : Status
  mic : List Sample
  y : List Sample
  /-- The frame is a fault frame (R169). -/
  fault : Bool
  /-- The samples of the named stream, when it is playing in the frame (R96). -/
  stream : Option (List Sample)
  /-- The frame is a frame of stand-alone operation (R134). -/
  standalone : Bool
  deriving DecidableEq, Repr

/-- One slot's samples of a frame's cycles, zeros standing for cycles not received. -/
def slotSamples (cycles : List (Vector Sample 32)) (k : SlotNo) : List Sample :=
  takePad Config.frameCycles (cycles.map fun row => row[k])

/-- The samples of slot number `n`, silence for a number that is no slot. -/
def slotNumbered (cycles : List (Vector Sample 32)) (n : Option Nat) : List Sample :=
  match n with
  | none => silence
  | some n => if h : n < 32 then slotSamples cycles ⟨n, h⟩ else silence

/-- The buffer of stream number `n` when it is playing (R96, R106). -/
def streamPlaying (streams : Vector Stream 16) (n : Nat) : Option (List Sample) :=
  if h : n < 16 then (if streams[n].playing then some streams[n].buffer else none) else none

/-- The inputs of a seat's frame work (R141, R142). -/
def seatInputs (s : State) (k : SeatNo) : SeatInputs :=
  let g := s.seats[k].governing
  { status := takeStatus s.sh.slots[k]
    mic := slotSamples s.sh.mics k
    y := slotNumbered s.nh.ys g.slot
    fault := s.nh.fault
    stream := streamPlaying s.streams g.routing.holdStream
    standalone := s.tick.standalone }

/-! ## Status and key mute (R14, R16) -/

/-- The notices of a change of taken status (R14). -/
def statusNotices (k : SeatNo) (keyMute allowed : Bool) (old new : Status) : List NoticeOut :=
  (if new.present && !old.present then [⟨.headsetOn, .seat k, 0, 0, 0⟩] else []) ++
  (if old.present && !new.present then [⟨.headsetOff, .seat k, 0, 0, 0⟩] else []) ++
  (if new.muteKey && !old.muteKey then [⟨.muteKey, .seat k, flagWord keyMute, flagWord allowed, 0⟩] else []) ++
  (if new.talkKey != old.talkKey then [⟨.talkKey, .seat k, flagWord new.talkKey, 0, 0⟩] else [])

/-- The key mute flag after a frame's status (R16). -/
def nextKeyMute (allowed : Bool) (old new : Status) (flag : Bool) : Bool :=
  if new.muteKey && !old.muteKey && allowed then !flag else flag

/-! ## The buses (Tables 1-10 and 1-11) -/

/-- The LINE terms of a frame (R19, Table 8-2). -/
def lineTerms (g : Settings) (sent : List Sample) (gates : List Gate) (fallback : Bool) (tone : List Sample)
    (stream : Option (List Sample)) : List (List Int) :=
  match g.routing.mode with
  | .talk => term sent g.levels.mic :: (bargeVoices gates).map fun v => term v g.levels.barge
  | .hold =>
    if fallback then [term tone Config.unity]
    else (stream.map fun b => term b g.levels.hold).toList
  | .idle | .supervise => []

/-- The EAR terms of a frame (R20, Table 8-2). -/
def earTerms (g : Settings) (kept : SeatNo → Kept) (cust micOut : List Sample) (path : List Int)
    (duckOld duckNew : Nat) (fallback : Bool) (tone : List Sample) : List (List Int) :=
  let always := [term path g.levels.whisper, term micOut g.levels.side]
  match g.routing.mode with
  | .idle => always
  | .talk => custTerm cust g.levels.cust duckOld duckNew :: always
  | .hold => if fallback then always else term tone Config.unity :: always
  | .supervise =>
    match g.attachedTo with
    | none => always
    | some t => term (addFrames (kept t).cust (kept t).sent) g.levels.listen :: always

/-! ## The stages of a frame work (R142, stages 1 to 11) -/

/-- The result of a seat's frame work before its memory accesses: the seat, whether its first cell plays, and the
notices to hand, in order. -/
structure SeatAudio where
  seat : Seat
  plays : Bool
  notices : List NoticeOut
  deriving DecidableEq, Repr

/-- The sent voice of a frame (R17). -/
def sentVoice (hostMute keyMute present : Bool) (micOut : List Sample) : List Sample :=
  if !hostMute && !keyMute && present then micOut else silence

/-- The stages of R142 that touch no memory.  `kept` gives the kept results of frame f−1 (R75). -/
def seatAudio (k : SeatNo) (kept : SeatNo → Kept) (i : SeatInputs) (x : Seat) : SeatAudio :=
  let g := x.governing
  let allowed := g.routing.keyMuteAllowed
  let keyMute := nextKeyMute allowed x.status i.status x.keyMute
  let ec := cancelFrame g.echo g.routing.mode.holdsSlot i.fault x.mixer.line i.y x.canceller
  let ns := suppressFrame g.noise i.status.present x.suppressor i.mic
  let cust := residual g.echo (decide (x.canceller.state = .tracking)) ns.1.voice ec.1.reasons.doubleTalk ec.2
  let sent := sentVoice g.routing.hostMute keyMute i.status.present ns.2
  let gates := gatesOf kept g.supervisors
  let gate := anyGate gates
  let plays := x.prompt.due && ruling gate x.arbiter.quiet
  let path := whisperPath gates (if plays then some x.prompt.buffer else none)
  let active := gate || plays
  let duck := duckTarget active g.levels.duck
  let inHold := decide (g.routing.mode = .hold)
  let unit := settleUser g.cadence (i.standalone && inHold && i.stream.isNone) inHold x.cadence
  let sound := soundFrame g.cadence unit
  let ear := busSums (earTerms g kept cust ns.2 path x.arbiter.duck duck unit.fallback sound.2)
  let line := busSums (lineTerms g sent gates unit.fallback sound.2 i.stream)
  let decision := decideState k x.blocks.length ec.1
  { seat :=
      { x with
        keyMute := keyMute
        status := i.status
        canceller := decision.1
        suppressor := ns.1
        arbiter := { duck := duck, quiet := nextQuiet gate x.arbiter.quiet, active := active }
        cadence := sound.1
        kept := { cust := cust, sent := sent, voice := ns.1.voice, talkKey := i.status.talkKey }
        mixer :=
          { ear := ear.map busSample
            line := line.map busSample
            lineSlot := g.slot
            onAir := decide (g.routing.mode = .talk) && (!g.routing.hostMute && !keyMute && i.status.present)
            whisper := active
            earClips := nextClips ear x.mixer.earClips
            lineClips := nextClips line x.mixer.lineClips } }
    plays := plays
    notices := statusNotices k keyMute allowed x.status i.status ++ decision.2 }

/-! ## The seat report (R151, R152, Table 12-12) -/

/-- A seat number of a report field; 255 is none. -/
def seatOrNone (k : Option SeatNo) : Nat :=
  match k with
  | some k => k.val
  | none => 255

/-- Word 08h of the report: canceller, suppressor, status and flags. -/
def reportFlags (x : Seat) : Word :=
  pack [(0, x.canceller.state.encode), (4, flagNat x.canceller.reasons.doubleTalk),
    (5, flagNat x.canceller.reasons.hostFreeze), (6, flagNat x.canceller.reasons.lowReference),
    (7, flagNat x.canceller.reasons.networkFault), (8, x.blocks.length), (16, x.suppressor.band),
    (19, flagNat x.suppressor.voice), (20, flagNat x.status.present), (21, flagNat x.status.muteKey),
    (22, flagNat x.status.talkKey), (23, flagNat x.keyMute), (24, flagNat x.arbiter.active),
    (31, flagNat x.edition.isSome)]

/-- Word 0Ch of the report: the first cell of the play order, and the cadence phase and user of the frame. -/
def reportCells (x : Seat) (phase : Phase) (fallback : Bool) : Word :=
  pack [(0, match x.prompt.order.head? with
            | some q => q.cell.val
            | none => 15),
    (8, match x.prompt.order.head? with
        | some q => q.expected.encode
        | none => 0),
    (16, phase.encode), (18, flagNat fallback)]

/-- The words of the report in rising offset (assumption 31), the frame number last (R151).  `phase` and `fallback` are
the cadence unit's for the frame. -/
def seatReport (frame : Word) (x : Seat) (phase : Phase) (fallback : Bool) : List Word :=
  let g := x.governing
  let list := g.supervisors.map Attachment.seat
  [x.edition.getD 0,
   pack [(0, g.routing.mode.encode), (8, seatOrNone g.attachedTo), (16, seatOrNone list[0]?),
     (24, seatOrNone list[1]?)],
   reportFlags x, reportCells x phase fallback,
   BitVec.ofNat 32 x.canceller.ex, BitVec.ofNat 32 x.canceller.ey, BitVec.ofNat 32 x.canceller.ee,
   BitVec.ofNat 32 x.suppressor.floor, BitVec.ofNat 32 x.suppressor.gain,
   BitVec.ofNat 32 (meanSquare x.mixer.ear), BitVec.ofNat 32 (meanSquare x.mixer.line),
   BitVec.ofNat 32 x.mixer.earClips, BitVec.ofNat 32 x.mixer.lineClips,
   pack [(1, flagNat x.adopted.echo.hostFreeze)]] ++
  echoWords x.adopted.echo ++ noiseWords x.adopted.noise ++ levelWords x.adopted.levels ++
  cadenceWords x.adopted.cadence ++ [frame]

/-! ## The whole frame work -/

/-- The frame work of a seat in service (R142), with its memory accesses: the Prompt Unit's reads and cell writes,
and the report. -/
def frameWorkSeat (e : Env) (k : SeatNo) (kept : SeatNo → Kept) (i : SeatInputs) (x : Seat) (io : Io) : Seat × Io :=
  let a := seatAudio k kept i x
  let p := promptFrame e k a.plays x.prompt (handAll e a.notices io)
  let c := endCells e k p
  let unit := a.seat.cadence
  let y := { a.seat with prompt := c.1, cadence := endPhase x.governing.cadence unit }
  (y, (writeRecord e (.seat k) (placed (seatReportAt e.area k) (seatReport e.frame y unit.phase unit.fallback)) c.2).2)

/-- A seat out of service makes no frame work (R1, R141): it sends silence, keeps zeros for other seats (R75), its
owed cell writes are tried again (R121), and a reminder or fallback use that it left service in stops (R132, R136). -/
def idleSeat (e : Env) (k : SeatNo) (x : Seat) (io : Io) : Seat × Io :=
  let c := retryCells e k x.prompt io
  ({ x with
      prompt := c.1
      kept := .zero
      cadence := settleUser x.governing.cadence false false x.cadence
      mixer := { x.mixer with ear := silence, line := silence, lineSlot := none, onAir := false, whisper := false } },
   c.2)

/-- What one seat does in a frame of work.  What it reads of other seats and of the streams is what stood in `s0`,
before any unit's work of this frame (R143). -/
def seatWork (s0 : State) (k : SeatNo) (s : State) : State :=
  let r :=
    if k.val < s.header.serving then
      frameWorkSeat s.env k (fun j => s0.seats[j].kept) (seatInputs s0 k) s.seats[k] s.io
    else idleSeat s.env k s.seats[k] s.io
  { s with seats := s.seats.set k r.1, io := r.2 }

end Sys2Proof.Machine
end

