-- ==== Sys2Proof/Machine/SeatHighway.lean ====
section
/-! DEFINITION. The Seat Highway Port (9.1, 9.4): slots, debouncing, downstream words, and its restart. -/

namespace Sys2Proof.Machine

/-- The MIC sample of an upstream slot word (Table 9-1). -/
def micOf (w : Word) : Sample := (w.extractLsb' 16 16).toInt

/-- A downstream slot word: the EAR sample, WHISPER and ON_AIR (Table 9-1). -/
def downstreamWord (ear : Sample) (whisper onAir : Bool) : Word :=
  (BitVec.ofInt 16 ear ++ (0 : BitVec 16)) ||| pack [(1, flagNat whisper), (0, flagNat onAir)]

/-- The debounce step of one bit at a cycle, a completed count taken first (R159). -/
def Debounce.sampled (bit : Bool) (d : Debounce) : Debounce :=
  let d := d.settled
  if bit = d.value then { d with count := 0 } else { d with count := d.count + 1 }

/-- The debounce step of a slot (R159, Table 9-1). -/
def SlotStatus.sampled (w : Word) (x : SlotStatus) : SlotStatus :=
  { present := x.present.sampled (w.getLsbD 0)
    muteKey := x.muteKey.sampled (w.getLsbD 1)
    talkKey := x.talkKey.sampled (w.getLsbD 2) }

/-- One status bit of a slot replaced by a function of it. -/
def SlotStatus.modBit (x : SlotStatus) (b : StatusBit) (f : Debounce → Debounce) : SlotStatus :=
  match b with
  | .present => { x with present := f x.present }
  | .muteKey => { x with muteKey := f x.muteKey }
  | .talkKey => { x with talkKey := f x.talkKey }

/-- A slot's completed debounce counts taken. -/
def SlotStatus.settled (x : SlotStatus) : SlotStatus :=
  { present := x.present.settled, muteKey := x.muteKey.settled, talkKey := x.talkKey.settled }

/-- A slot's debounce counts set to 0 with the debounced values kept (R159, RUN 0). -/
def SlotStatus.stopped (x : SlotStatus) : SlotStatus :=
  let y := x.settled
  { present := { y.present with count := 0 }
    muteKey := { y.muteKey with count := 0 }
    talkKey := { y.talkKey with count := 0 } }

/-- The downstream words of a cycle: each serving seat's EAR sample of the frame before and its indicator bits; 0
for a seat out of service, for every slot while the part is stopped, and while the port is DISABLED (R160). -/
def downstream (s : State) : Vector Word 32 :=
  tabulate fun k =>
    if s.sh.running && s.running && decide (k.val < s.header.serving) then
      let m := s.seats[k].mixer
      downstreamWord (m.ear.getD s.cycle 0) m.whisper m.onAir
    else 0

/-- The Seat Highway Port through one cycle: downstream driven, upstream sampled while it is RUNNING and the part
works (R155, R156, R159, R160). -/
def seatPortCycle (s : State) (up : Vector Word 32) : SeatPort :=
  let sampling := s.sh.running && s.running
  { s.sh with
    slots := if sampling then tabulate fun k => s.sh.slots[k].sampled up[k] else s.sh.slots
    mics := s.sh.mics ++ [if sampling then tabulate fun k => micOf up[k] else zeroCycle]
    line := downstream s }

/-- The port at a frame boundary: a start or restart takes the adopted settings and clears every slot's status
(R156); the frame's samples make way for the next frame's. -/
def SeatPort.opened (p : SeatPort) : SeatPort :=
  let p := { p with mics := [] }
  if p.restart then
    { p with running := true, current := p.adopted, restart := false, slots := Vector.replicate 32 .reset }
  else p

/-- RUN 1→0: the counts are set to 0 and the debounced values kept (R159). -/
def SeatPort.stop (p : SeatPort) : SeatPort :=
  { p with slots := tabulate fun k => p.slots[k].stopped }

/-- A debounce count that has reached 16 is taken (R159). -/
def completeDebounce (slot : SeatNo) (bit : StatusBit) (p : SeatPort) : SeatPort :=
  { p with slots := p.slots.set slot (p.slots[slot].modBit bit Debounce.settled) }

/-- A header's Seat Highway fields adopted: the first header after a reset, or a change, makes the port start or
restart at the next boundary (R156, R181). -/
def adoptSeatHighway (first : Bool) (d : Divider) (p : SeatPort) : SeatPort :=
  { p with adopted := d, restart := p.restart || first || decide (d ≠ p.adopted) }

end Sys2Proof.Machine
end

