-- ==== Sys2Proof/Machine/NetHighway.lean ====
section
/-! DEFINITION. The Network Highway Port (9.5 to 9.7): slots and the check, the lock machine, and the elastic
stores with their slips. -/

namespace Sys2Proof.Machine

/-! ## Slots and the check (R161, R165) -/

/-- The sample bits of a received slot: the first 16 bits of the slot, the pad of a 32-bit slot ignored (R161). -/
def slotBits (narrow : Bool) (w : Word) : Half := if narrow then w.extractLsb' 0 16 else w.extractLsb' 16 16

/-- A slot as sent: the sample first, the pad of a 32-bit slot 0 (R161). -/
def slotWord (narrow : Bool) (h : Half) : Word := if narrow then h.setWidth 32 else h ++ (0 : BitVec 16)

/-- One data bit into the check register (R165). -/
def checkBit (r : BitVec 16) (b : Bool) : BitVec 16 :=
  if r.msb != b then (r <<< 1) ^^^ 0x1021#16 else r <<< 1

/-- One sample's 16 bits into the check register, most significant first (R165). -/
def checkSample (r : BitVec 16) (x : Half) : BitVec 16 :=
  (List.range 16).foldl (fun r i => checkBit r (x.getLsbD (15 - i))) r

/-- The check of a cycle, over its 32 voice samples, slot 0 first (R165). -/
def checkOf (samples : Vector Sample 32) : BitVec 16 :=
  samples.toList.foldl (fun r x => checkSample r (BitVec.ofInt 16 x)) 0xFFFF#16

/-- The voice samples of a received cycle. -/
def voiceSamples (narrow : Bool) (slots : Vector Word 33) : Vector Sample 32 :=
  tabulate fun k => (slotBits narrow slots[k.val]).toInt

/-- The slot words of a cycle as sent: the voice slots, and slot 32 with the check when checking is enabled. -/
def sentSlots (c : NetSettings) (samples : Vector Sample 32) : Vector Word 33 :=
  tabulate fun k =>
    if h : k.val < 32 then slotWord c.narrow (BitVec.ofInt 16 samples[k.val])
    else if c.check then slotWord c.narrow (checkOf samples) else 0

/-! ## Slips (R167 to R170) -/

/-- The two directions of a slip (Table 12-7). -/
inductive Direction
  | receive
  | transmit
  deriving DecidableEq, Repr

/-- A slip: its count rises, the frame becomes a fault frame (R169), and SLIP is to be posted (R170). -/
def slip (d : Direction) (p : NetPort) : NetPort × List NoticeOut :=
  let p :=
    match d with
    | .receive => { p with rxSlips := countUp p.rxSlips, fault := true }
    | .transmit => { p with txSlips := countUp p.txSlips, fault := true }
  (p, [⟨.slip, .network, match d with
      | .receive => 1
      | .transmit => 2, BitVec.ofNat 32 p.rxSlips, BitVec.ofNat 32 p.txSlips⟩])

/-! ## The lock machine (R162, R163, R164) -/

/-- Going to LOCKED (R163); while the part is stopped both stores are left empty (R172). -/
def goLocked (working : Bool) (p : NetPort) : NetPort × List NoticeOut :=
  ({ p with
      lock := .locked
      rx := if working then List.replicate Config.storeLock .zero else []
      tx := if working then List.replicate Config.storeLock zeroCycle else []
      lastGood := zeroCycle
      miss := 0
      consecutive := 0
      storm := false },
   [⟨.locked, .network, flagWord p.current.lead, 0, 0⟩])

/-- A cycle start seen on the sync input, `bits` bit clocks after the one before (R163). -/
def seeCycleStart (working : Bool) (bits : Nat) (p : NetPort) : NetPort × List NoticeOut :=
  if p.lock = .hunt then
    let run := if p.run = 0 then 1 else if bits = p.current.divider.len then p.run + 1 else 1
    let p := { p with run := run }
    if 4 ≤ run then goLocked working p else (p, [])
  else (p, [])

/-- Whether the sync shows a cycle start at the expected place: for PULSE an active last bit of the ending cycle;
for SPAN an active first bit after an inactive last bit (R164).  `sync` is the L bits of the ending cycle and the
first bit of the next. -/
def startShown (c : NetSettings) (sync : List Bool) : Bool :=
  let len := c.divider.len
  if c.span then sync.getD len false && !sync.getD (len - 1) false else sync.getD (len - 1) false

/-- Whether the sync showed a cycle start elsewhere in the ending cycle (R161, R164). -/
def startElsewhere (c : NetSettings) (sync : List Bool) : Bool :=
  let len := c.divider.len
  if c.span then
    (List.range (len - 1)).any fun i => sync.getD (i + 1) false && !sync.getD i false
  else (List.range (len - 1)).any fun i => sync.getD i false

/-- Whether an ended cycle is good for sync (R164). -/
def goodSync (c : NetSettings) (sync : List Bool) : Bool := startShown c sync && !startElsewhere c sync

/-- The sync test at an expected cycle start, while LOCKED in FOLLOW (R164). -/
def testSync (sync : List Bool) (p : NetPort) : NetPort × List NoticeOut :=
  if p.lock = .locked ∧ p.current.lead = false then
    if goodSync p.current sync then ({ p with miss := 0 }, [])
    else if 2 ≤ p.miss + 1 then
      ({ p with lock := .hunt, run := 0, miss := p.miss + 1, rx := [], tx := [], line := Vector.replicate 33 0 },
       [⟨.lost, .network, 0, 0, 0⟩])
    else ({ p with miss := p.miss + 1 }, [])
  else (p, [])

/-! ## The receive store (R165, R166, R167) -/

/-- A failed cycle: the last good samples with the failed mark, and CHECK_STORM at the 32nd in a row (R165, R166). -/
def failCycle (p : NetPort) : NetPort × RxCycle × List NoticeOut :=
  let failures := countUp p.checkFailures
  let consecutive := min 32 (p.consecutive + 1)
  let storms := decide (consecutive = 32) && !p.storm
  ({ p with checkFailures := failures, consecutive := consecutive, storm := p.storm || storms },
   { samples := p.lastGood, failed := true },
   if storms then [⟨.checkStorm, .network, BitVec.ofNat 32 failures, 0, 0⟩] else [])

/-- A good cycle (R165, R166). -/
def passCycle (samples : Vector Sample 32) (p : NetPort) : NetPort × RxCycle × List NoticeOut :=
  ({ p with consecutive := 0, storm := false, lastGood := samples }, { samples := samples, failed := false }, [])

/-- The check of a received cycle (R165). -/
def checkCycle (slots : Vector Word 33) (p : NetPort) : NetPort × RxCycle × List NoticeOut :=
  let samples := voiceSamples p.current.narrow slots
  if p.current.check && decide (slotBits p.current.narrow slots[32] ≠ checkOf samples) then failCycle p
  else passCycle samples p

/-- Append an entry to the receive store; a full store drops its oldest with a slip (R167). -/
def pushRx (x : RxCycle) (p : NetPort) : NetPort × List NoticeOut :=
  if p.rx.length < Config.storeDepth then ({ p with rx := p.rx ++ [x] }, [])
  else slip .receive { p with rx := p.rx.tail ++ [x] }

/-- The arrival of a received cycle; none arrives while the port is not LOCKED, and it is discarded while the part
is stopped (R167, R172). -/
def arrive (working : Bool) (slots : Vector Word 33) (p : NetPort) : NetPort × List NoticeOut :=
  if p.lock = .locked ∧ working = true then
    let r := checkCycle slots p
    let q := pushRx r.2.1 r.1
    (q.1, r.2.2 ++ q.2)
  else (p, [])

/-- An entry delivered to the timeline; a failed mark makes the frame a fault frame (R169). -/
def deliver (x : RxCycle) (p : NetPort) : NetPort :=
  { p with lastRx := x, ys := p.ys ++ [x.samples], fault := p.fault || x.failed }

/-- The timeline's read of the receive store (R167).  While the port is not LOCKED it delivers zeros and the frame
is a fault frame (R169); while the part is stopped nothing is read (R172). -/
def readRx (working : Bool) (p : NetPort) : NetPort × List NoticeOut :=
  if p.lock = .locked then
    if working then
      match p.rx with
      | x :: rest => (deliver x { p with rx := rest }, [])
      | [] => let r := slip .receive p; (deliver p.lastRx r.1, r.2)
    else ({ p with ys := p.ys ++ [zeroCycle] }, [])
  else ({ p with ys := p.ys ++ [zeroCycle], fault := true }, [])

/-! ## The transmit store (R168) -/

/-- The entry of a cycle: slot `k` is the LINE sample of the frame before of the seat that held slot `k` then, 0
for a slot that no seat held (R168). -/
def transmitEntry (s : State) : Vector Sample 32 :=
  tabulate fun k =>
    match (List.finRange 32).find? fun j => s.seats[j].mixer.lineSlot = some k.val with
    | some j => s.seats[j].mixer.line.getD s.cycle 0
    | none => 0

/-- The timeline's write of the transmit store; a full store drops its oldest with a slip, and a port that is not
LOCKED, or a stopped part, discards the entry (R168, R172). -/
def writeTx (working : Bool) (x : Vector Sample 32) (p : NetPort) : NetPort × List NoticeOut :=
  if p.lock = .locked ∧ working = true then
    if p.tx.length < Config.storeDepth then ({ p with tx := p.tx ++ [x] }, [])
    else slip .transmit { p with tx := p.tx.tail ++ [x] }
  else (p, [])

/-- An entry sent on the data line, with its check (R168). -/
def send (x : Vector Sample 32) (p : NetPort) : NetPort :=
  { p with lastTx := x, line := sentSlots p.current x }

/-- A Network Highway cycle start: the oldest entry is sent, or the last one again with a slip; zeros while the part
is stopped; nothing while the port is not LOCKED, with the data line at 0 (R162, R163, R168, R172). -/
def readTx (working : Bool) (p : NetPort) : NetPort × List NoticeOut :=
  if p.lock = .locked then
    if working then
      match p.tx with
      | x :: rest => (send x { p with tx := rest }, [])
      | [] => let r := slip .transmit p; (send p.lastTx r.1, r.2)
    else ({ p with line := sentSlots p.current zeroCycle }, [])
  else ({ p with line := Vector.replicate 33 0 }, [])

/-! ## The timeline cycle and the frame boundary -/

/-- The end of a timeline cycle: a restarted LEAD port goes to LOCKED (R162). -/
def leadLock (working : Bool) (p : NetPort) : NetPort × List NoticeOut :=
  if p.leadStart then goLocked working { p with leadStart := false } else (p, [])

/-- The port through one Seat Highway cycle: the receive store is read, the transmit store is written, and a
restarted LEAD port locks at the end.  A receive slip is handed before a transmit slip of the same cycle
(assumption 32). -/
def netPortCycle (working : Bool) (x : Vector Sample 32) (p : NetPort) : NetPort × List NoticeOut :=
  let a := readRx working p
  let b := writeTx working x a.1
  let d := leadLock working b.1
  (d.1, a.2 ++ b.2 ++ d.2)

/-- A restart at a frame boundary (R162, R165, R170). -/
def NetPort.restarted (p : NetPort) : NetPort :=
  { p with
    current := p.adopted
    restart := false
    lock := if p.adopted.enable && !p.adopted.lead then .hunt else .down
    leadStart := p.adopted.enable && p.adopted.lead
    run := 0, miss := 0, rx := [], tx := [], lastGood := zeroCycle, checkFailures := 0, consecutive := 0,
    storm := false, rxSlips := 0, txSlips := 0, line := Vector.replicate 33 0 }

/-- The port at a frame boundary: a restart is made, and the frame's samples and fault mark make way for the next
frame's. -/
def NetPort.opened (p : NetPort) : NetPort :=
  let p := { p with ys := [], fault := false }
  if p.restart then p.restarted else p

/-- RUN 1→0: both stores are left empty (R172). -/
def NetPort.stop (p : NetPort) : NetPort := { p with rx := [], tx := [] }

/-- RUN 0→1: each store of a LOCKED port is set to 32 zero cycles (R172). -/
def NetPort.resume (p : NetPort) : NetPort :=
  if p.lock = .locked then
    { p with rx := List.replicate Config.storeLock .zero, tx := List.replicate Config.storeLock zeroCycle }
  else p

/-- A header's Network Highway fields adopted: a change makes the port restart at the next boundary (R162, R181). -/
def adoptNetHighway (c : NetSettings) (p : NetPort) : NetPort :=
  { p with adopted := c, restart := p.restart || decide (c ≠ p.adopted) }

/-- A port and its notices put back into the state. -/
def State.setNet (s : State) (r : NetPort × List NoticeOut) : State :=
  { s with nh := r.1, io := handAll s.env r.2 s.io }

end Sys2Proof.Machine
end

