-- ==== Sys2Proof/Machine/Notices.lean ====
section
/-! DEFINITION. The Notice Unit at the end of a frame (11.3): held reads, and the serving of the notice slots. -/

namespace Sys2Proof.Machine

/-! ## Held reads (R191, R192) -/

/-- The held read of a posted class: a 0 takes the notice back; a read that fails leaves the class posted and posts
READ_FAILED, with the class number as its second detail (Table 12-7). -/
def heldRead (e : Env) (io : Io) (c : NoticeClass) : Io :=
  if io.posted c then
    let r := readReporting e .noticeUnit (BitVec.ofNat 32 c.number) (slotAt e.area c) io
    if r.1 = some 0 then r.2.setCls c { r.2.cls c with shown := none } else r.2
  else io

/-- The held reads of a frame, in class-number order. -/
def heldReads (e : Env) (io : Io) : Io := classes.foldl (heldRead e) io

/-! ## Serving (R190, R192) -/

/-- The words of a notice slot but the held word, in the order they are written (Table 12-6, R190). -/
def slotWords (base : Nat) (n : Notice) : List (Nat × Word) :=
  [(base + 0x04, BitVec.ofNat 32 n.code.number), (base + 0x08, n.source.word), (base + 0x0C, n.frame),
   (base + 0x10, BitVec.ofNat 32 n.merged), (base + 0x14, n.detail0), (base + 0x18, n.detail1),
   (base + 0x1C, n.detail2)]

/-- Write words in order and stop at the first that is not made; answers how it ended and the address it ended at. -/
def writeUntil (e : Env) : List (Nat × Word) → Io → (Written × Nat) × Io
  | [], io => ((.made, 0), io)
  | (a, w) :: ws, io =>
    let r := writeWord e a w io
    match r.1 with
    | .made => writeUntil e ws r.2
    | .refused => ((.refused, a), r.2)
    | .failed => ((.failed, a), r.2)

/-- The serving of a frame so far: the bus side, and the notices the serving itself hands, which are served at the
end of the next frame (R190). -/
structure Serving where
  io : Io
  later : List NoticeOut
  deriving DecidableEq, Repr

/-- The WRITE_FAILED of a slot, unless the slot is the FAULT class's own (R192). -/
def slotFailure (c : NoticeClass) (a : Nat) : List NoticeOut :=
  if c = .fault then []
  else [⟨.writeFailed, .noticeUnit, BitVec.ofNat 32 a, BitVec.ofNat 32 c.number, 0⟩]

/-- Write one entry into its class's slot, the held word last (R190); an entry whose held word is not written is
dropped, and the class stays unposted (R192). -/
def serveEntry (e : Env) (c : NoticeClass) (n : Notice) (s : Serving) : Serving :=
  let base := slotAt e.area c
  let r := writeUntil e (slotWords base n ++ [(base, 1)]) s.io
  match r.1.1 with
  | .made => { s with io := r.2.setCls c { r.2.cls c with shown := some n } }
  | .refused => { s with io := { r.2 with windowFault := true } }
  | .failed => { io := r.2, later := s.later ++ slotFailure c r.1.2 }

/-- Serve a class that is unposted and has entries (R190). -/
def serveClass (e : Env) (s : Serving) (c : NoticeClass) : Serving :=
  if s.io.posted c then s
  else
    match (s.io.cls c).waiting with
    | [] => s
    | n :: rest => serveEntry e c n { s with io := s.io.setCls c { s.io.cls c with waiting := rest } }

/-- The serving of a frame, in class-number order; what it hands reaches the lists after it (R190). -/
def serveNotices (e : Env) (io : Io) : Io :=
  let s := classes.foldl (serveClass e) { io := io, later := [] }
  handAll e s.later s.io

/-- Whether a TICK_LATE is still in the SUPERVISION class: shown in its slot, or in its pending list (R196). -/
def tickLateThere (io : Io) : Bool :=
  (io.supervisionClass.shown.toList ++ io.supervisionClass.waiting).any fun n => decide (n.code = .tickLate)

end Sys2Proof.Machine
end

