-- ==== Sys2Proof/Machine/TailPool.lean ====
section
/-! DEFINITION. The Tail Pool (2.8): releases, grants, requests, retries, shrinking and growing. -/

namespace Sys2Proof.Machine

/-- A block takes its place in the free list by its number (R36). -/
def insertBlock (b : Nat) : List Nat → List Nat
  | [] => [b]
  | x :: xs => if b < x then b :: x :: xs else x :: insertBlock b xs

/-- Take blocks from the end of a seat's list back to the free list until it holds `keep` (R41, R43). -/
def State.releaseTail (s : State) (k : SeatNo) (keep : Nat) : State :=
  let held := s.seats[k].blocks
  { s.modSeat k (fun x => { x with blocks := held.take keep }) with
    pool := (held.drop keep).foldr insertBlock s.pool }

/-- Grant `n` blocks from the head of the free list, appended to the seat's list (R36). -/
def State.grantTail (s : State) (k : SeatNo) (n : Nat) : State :=
  { s.modSeat k (fun x => { x with blocks := x.blocks ++ s.pool.take n }) with pool := s.pool.drop n }

/-- Put a seat in the waiting condition, or take it out (R39). -/
def State.setWaiting (s : State) (k : SeatNo) (w : Bool) : State := s.modSeat k fun x => { x with waiting := w }

/-- Post POOL_SHORT: the request, the floor and the number of free blocks (R38, R42). -/
def State.poolShort (s : State) (k : SeatNo) (e : Echo) : State :=
  s.hand .poolShort (.seat k) (BitVec.ofNat 32 e.tailRequest) (BitVec.ofNat 32 e.tailFloor)
    (BitVec.ofNat 32 s.pool.length)

/-- A seat holding no blocks asks for its tail (R38); `loud` is false for a retry, which posts nothing (R39). -/
def State.requestTail (s : State) (k : SeatNo) (loud : Bool) : State :=
  let e := s.seats[k].adopted.echo
  let n := min e.tailRequest s.pool.length
  if e.tailFloor ≤ n then (s.grantTail k n).setWaiting k false
  else
    let s := s.setWaiting k true
    if loud then s.poolShort k e else s

/-- The retry of a waiting seat at its place in a scan (R39). -/
def State.retryTail (s : State) (k : SeatNo) : State :=
  if s.seats[k].waiting then s.requestTail k false else s

/-- A seat holding blocks adopts a tail_request above their number (R42). -/
def State.growTail (s : State) (k : SeatNo) : State :=
  let e := s.seats[k].adopted.echo
  let held := s.seats[k].blocks.length
  let n := min e.tailRequest (held + s.pool.length)
  if e.tailFloor ≤ n then s.grantTail k (n - held) else s.poolShort k e

/-- A seat releases all its blocks and leaves the waiting condition (R39, R43). -/
def State.dropTail (s : State) (k : SeatNo) : State := (s.releaseTail k 0).setWaiting k false

end Sys2Proof.Machine
end

