-- ==== Sys2Proof/Machine/Routing.lean ====
section
/-! DEFINITION. The ROUTING checks (Table 1-6) and the side effects of a change of mode (1.4, 4.1). -/

namespace Sys2Proof.Machine

/-! ## Checks (R3, R4) -/

/-- The checks of a request for TALK or HOLD: SLOT_RANGE, then SLOT_TAKEN. -/
def checkSlot (s : State) (k : SeatNo) (n : Nat) : Option Reason :=
  if h : n < 32 then
    match s.slotMap[n] with
    | some j => if j = k then none else some .slotTaken
    | none => none
  else some .slotRange

/-- STREAM_RANGE, for a request for HOLD. -/
def checkStream (n : Nat) : Option Reason := if n < 16 ∨ n = 255 then none else some .streamRange

/-- The checks of a request for SUPERVISE, in the order of Table 1-6. -/
def checkTarget (s : State) (k : SeatNo) (n : Nat) : Option Reason :=
  if h : n < 32 then
    let t := s.seats[n].adopted
    if n = k.val ∨ s.header.seats ≤ n ∨ t.routing.mode = .supervise then some .targetInvalid
    else if t.routing.mode = .idle then some .targetIdle
    else if 2 ≤ t.supervisors.length ∧ ¬ (t.supervisors.any fun a => a.seat = k) then some .targetFull
    else if s.seats[k].adopted.supervisors ≠ [] then some .hasSupervisors
    else none
  else some .targetInvalid

/-- The ROUTING checks in the order of Table 1-6; the first that fails names the reason (R3). -/
def checkRouting (s : State) (k : SeatNo) (r : RoutingRecord) : Option Reason :=
  match decodeMode r.mode with
  | none => some .badMode
  | some .idle => none
  | some .talk => checkSlot s k r.nhSlot
  | some .hold => (checkSlot s k r.nhSlot).or (checkStream r.holdStream)
  | some .supervise => if (decodeKind r.kind).isNone then some .badMode else checkTarget s k r.target

/-- The ROUTING fields a record gives (Table 1-5). -/
def RoutingRecord.adopt (r : RoutingRecord) : Routing :=
  { mode := (decodeMode r.mode).getD .idle
    nhSlot := some r.nhSlot
    holdStream := r.holdStream
    target := some r.target
    kind := r.kind
    pushToTalk := r.pushToTalk
    hostMute := r.hostMute
    keyMuteAllowed := r.keyMuteAllowed }

/-! ## Attachment lists (4.1) -/

/-- A supervisor leaves its target's list; the entries after it move up (R70, R72). -/
def State.leaveTarget (s : State) (k : SeatNo) : State :=
  match s.seats[k].adopted.attachedTo with
  | none => s
  | some t =>
    (s.modAdopted t fun g => { g with supervisors := g.supervisors.filter fun a => a.seat ≠ k }).modAdopted k
      fun g => { g with attachedTo := none }

/-- A supervisor is attached at the end of a target's list (R71). -/
def State.attach (s : State) (k t : SeatNo) (kind : Kind) (ptt : Bool) : State :=
  (s.modAdopted t fun g =>
      { g with supervisors := g.supervisors ++ [{ seat := k, kind := kind, pushToTalk := ptt }] }).modAdopted k
    fun g => { g with attachedTo := some t }

/-- A supervisor keeps its place with a new kind and push_to_talk (R10, R70). -/
def State.reattach (s : State) (k t : SeatNo) (kind : Kind) (ptt : Bool) : State :=
  s.modAdopted t fun g =>
    { g with supervisors := g.supervisors.map fun a =>
        if a.seat = k then { a with kind := kind, pushToTalk := ptt } else a }

/-- One supervisor of a target is detached, and notified with the cause: 1 TARGET_IDLE, 2 STANDALONE (R13). -/
def detachOne (t : SeatNo) (cause : Word) (s : State) (a : Attachment) : State :=
  (s.modAdopted a.seat fun g => { g with attachedTo := none }).hand .supervisorDetached (.seat a.seat) (seatWord t)
    cause 0

/-- A target's list is emptied, first entry then second (R73, R85). -/
def State.detachAll (s : State) (t : SeatNo) (cause : Word) : State :=
  (s.seats[t].adopted.supervisors.foldl (detachOne t cause) s).modAdopted t fun g => { g with supervisors := [] }

/-! ## Slots and streams -/

/-- A seat's entries of the slot map are freed, but for the slot it keeps (R5). -/
def State.freeSlots (s : State) (k : SeatNo) (keep : Option Nat) : State :=
  { s with slotMap := tabulate fun n =>
      if s.slotMap[n] = some k ∧ keep ≠ some n.val then none else s.slotMap[n] }

/-- A seat claims a slot (R5). -/
def State.claimSlot (s : State) (k : SeatNo) (n : Nat) : State :=
  if h : n < 32 then { s with slotMap := s.slotMap.set n (some k) } else s

/-- A seat joins the listeners of a stream; 255 names none (R8). -/
def State.joinHold (s : State) (n : Nat) : State := if h : n < 16 then s.modStream ⟨n, h⟩ joinStream else s

/-- A seat leaves the listeners of a stream (R9). -/
def State.leaveHold (s : State) (n : Nat) : State := if h : n < 16 then s.modStream ⟨n, h⟩ leaveStream else s

/-! ## Changes of mode (R7 to R12) -/

/-- Entering HOLD: the stream's listener count rises, and the reminder starts if enabled (R8). -/
def State.enterHold (s : State) (k : SeatNo) : State :=
  let g := s.seats[k].adopted
  let s := s.joinHold g.routing.holdStream
  if g.cadence.reminderEnable then s.modDue k fun d => { d with reminder := some true } else s

/-- Leaving HOLD: the stream's listener count falls, and the reminder stops (R9, R11). -/
def State.exitHold (s : State) (k : SeatNo) (old : Settings) : State :=
  if old.routing.mode = .hold then
    (s.leaveHold old.routing.holdStream).modDue k fun d => { d with reminder := some false }
  else s

/-- Leaving TALK or HOLD for IDLE or SUPERVISE: steps 1 and 2 of R11. -/
def State.leaveCall (s : State) (k : SeatNo) (old : Settings) : State :=
  if old.routing.mode.holdsSlot then ((s.exitHold k old).freeSlots k none).dropTail k else s

/-- Entering IDLE, by adoption or by leaving service (R11). -/
def State.enterIdle (s : State) (k : SeatNo) (old : Settings) : State :=
  let s := s.leaveCall k old
  let s := if old.routing.mode.holdsSlot then s.detachAll k 1 else s
  let s := if old.routing.mode = .supervise then s.leaveTarget k else s
  s.modDue k fun d => { d with clearKeyMute := true }

/-- Leaving IDLE makes the suppressor's initial values due (R64). -/
def State.exitIdle (s : State) (k : SeatNo) (old : Settings) : State :=
  if old.routing.mode = .idle then s.modDue k fun d => { d with initSuppressor := true } else s

/-- Entering TALK or HOLD from IDLE or SUPERVISE (R7); answers whether the Tail Pool was asked. -/
def State.enterCall (s : State) (k : SeatNo) (old : Settings) (r : Routing) : State × Bool :=
  let s := if old.routing.mode = .supervise then s.leaveTarget k else s
  let s := s.claimSlot k (r.nhSlot.getD 32)
  let asks := s.seats[k].adopted.echo.enable
  let s := if asks then s.requestTail k true else s
  let s := s.exitIdle k old
  (if r.mode = .hold then s.enterHold k else s, asks)

/-- The stream and the reminder of a change within TALK and HOLD (R8, R9, R10). -/
def State.changeHold (s : State) (k : SeatNo) (old : Settings) (r : Routing) : State :=
  match old.routing.mode, r.mode with
  | .talk, .hold => s.enterHold k
  | .hold, .talk => s.exitHold k old
  | .hold, .hold =>
    if old.routing.holdStream = r.holdStream then s
    else (s.leaveHold old.routing.holdStream).joinHold r.holdStream
  | _, _ => s

/-- A slot moved, claimed before the old one is freed (R10). -/
def State.moveSlot (s : State) (k : SeatNo) (old : Settings) (r : Routing) : State :=
  if old.routing.nhSlot = r.nhSlot then s else (s.claimSlot k (r.nhSlot.getD 32)).freeSlots k r.nhSlot

/-- A change within TALK and HOLD (R8, R9, R10). -/
def State.stayInCall (s : State) (k : SeatNo) (old : Settings) (r : Routing) : State :=
  (s.changeHold k old r).moveSlot k old r

/-- Entering SUPERVISE, or a change within it (R10, R12, R71). -/
def State.supervise (s : State) (k : SeatNo) (old : Settings) (r : Routing) : State :=
  match decodeKind r.kind, r.target with
  | some kind, some n =>
    if h : n < 32 then
      let t : SeatNo := ⟨n, h⟩
      if old.routing.mode = .supervise then
        if old.attachedTo = some t then s.reattach k t kind r.pushToTalk
        else (s.leaveTarget k).attach k t kind r.pushToTalk
      else ((s.leaveCall k old).exitIdle k old).attach k t kind r.pushToTalk
    else s
  | _, _ => s

/-- Step 2 of an adoption: the mode and ROUTING fields change with their side effects (R184); answers whether the
Tail Pool was asked.  `old` is what the seat held before this record. -/
def State.applyRouting (s : State) (k : SeatNo) (old : Settings) (r : Routing) : State × Bool :=
  let s := s.modAdopted k fun g => { g with routing := r }
  let s := if old.routing.keyMuteAllowed && !r.keyMuteAllowed then
      s.modDue k fun d => { d with clearKeyMute := true } else s
  match r.mode with
  | .idle => (if old.routing.mode = .idle then s else s.enterIdle k old, false)
  | .supervise => (s.supervise k old r, false)
  | .talk | .hold =>
    if old.routing.mode.holdsSlot then (s.stayInCall k old r, false) else s.enterCall k old r

end Sys2Proof.Machine
end

