-- ==== Sys2Proof/Machine/Scan.lean ====
section
/-! DEFINITION. The adoption scan (10.5 to 10.7): editions, torn records, header, seat and stream adoption; and the
cell scan that follows it. -/

namespace Sys2Proof.Machine

/-! ## Seat records (R183, R184) -/

/-- The ECHO checks (R44). -/
def checkEcho (e : Echo) : Option Reason :=
  if e.tailRequest < 1 ∨ 16 < e.tailRequest ∨ e.tailFloor < 1 ∨ 16 < e.tailFloor ∨ e.tailRequest < e.tailFloor then
    some .tailRange
  else if 1023 < e.bulkDelay then some .delayRange
  else none

/-- The PROMPT_CANCEL check (R123). -/
def checkCancel (cell : Nat) : Option Reason := if cell ≤ 3 ∨ cell = 255 then none else some .cellRange

/-- The checks of the groups a record names, in order; the first that fails names the reason (R183). -/
def checkRecord (s : State) (k : SeatNo) (r : SeatRecord) : Option Reason :=
  ((if r.namesRouting then checkRouting s k r.routing else none).or
    (if r.namesEcho then checkEcho r.echo else none)).or
    (if r.namesCancel then checkCancel r.cancelCell else none)

/-- Step 1 of an adoption: the named groups' settings but ROUTING's (R184). -/
def storeGroups (r : SeatRecord) (g : Settings) : Settings :=
  { g with
    echo := if r.namesEcho then r.echo else g.echo
    noise := if r.namesNoise then r.noise else g.noise
    levels := if r.namesLevels then r.levels else g.levels
    cadence := if r.namesCadence then r.cadence else g.cadence }

/-- The change of a tail's length by an ECHO adoption, for a seat holding blocks (R41, R42); `old` is the tail_request
adopted before.  Only a record that raises the request grows the tail: a grant is final (R38, assumption 15). -/
def State.resizeTail (s : State) (k : SeatNo) (old : Nat) : State :=
  let request := s.seats[k].adopted.echo.tailRequest
  let held := s.seats[k].blocks.length
  if request < held then s.releaseTail k request
  else if old < request ∧ held < request then s.growTail k
  else s

/-- Step 3 of an adoption: the changes an ECHO group makes to a seat in TALK or HOLD (R184); `asked` says that step 2
asked the Tail Pool, and the answer whether the record has. -/
def State.applyEcho (s : State) (k : SeatNo) (old new : Echo) (clear asked : Bool) : State × Bool :=
  if s.seats[k].adopted.routing.mode.holdsSlot && !asked then
    if new.enable then
      if s.seats[k].blocks.isEmpty then (s.requestTail k true, true)
      else
        let s := s.resizeTail k old.tailRequest
        (if clear || decide (old.bulkDelay ≠ new.bulkDelay) then
          s.modDue k fun d => { d with zeroTaps := true } else s, false)
    else (s.dropTail k, false)
  else (s, asked)

/-- Step 4 of an adoption: the reminder starts and stops of a CADENCE group (R131, R132), and a new half_period
(R138). -/
def State.applyCadence (s : State) (k : SeatNo) (old new : Cadence) (restart : Bool) : State :=
  let inHold := decide (s.seats[k].adopted.routing.mode = .hold)
  let starts := inHold && new.reminderEnable && (!old.reminderEnable || restart)
  let stops := old.reminderEnable && !new.reminderEnable
  s.modDue k fun d =>
    { d with
      reminder := if starts then some true else if stops then some false else d.reminder
      newPeriod := decide (old.halfPeriod ≠ new.halfPeriod) }

/-- Step 5 of an adoption: removal marks for the cells a PROMPT_CANCEL group names (R124). -/
def State.applyCancel (s : State) (k : SeatNo) (all : Bool) (cell : Nat) : State :=
  s.modSeat k fun x => { x with prompt := x.prompt.markWhere .cancelled fun c => all || decide (c.val = cell) }

/-- A record's edition becomes the seat's adopted edition (R178). -/
def State.takeEdition (s : State) (k : SeatNo) (edition : Word) : State :=
  s.modSeat k fun x => { x with edition := some edition }

/-- An adopted seat record, applied in the order of R184; answers whether it asked the Tail Pool. -/
def State.adoptSeat (s : State) (k : SeatNo) (edition : Word) (r : SeatRecord) : State × Bool :=
  let old := s.seats[k].adopted
  let s := s.modAdopted k (storeGroups r)
  let x := if r.namesRouting then s.applyRouting k old r.routing.adopt else (s, false)
  let y := if r.namesEcho then x.1.applyEcho k old.echo r.echo r.clearTaps x.2 else x
  let s := if r.namesCadence then y.1.applyCadence k old.cadence r.cadence r.restart else y.1
  let s := if r.namesCancel then s.applyCancel k r.cancelAll r.cancelCell else s
  (s.takeEdition k edition, y.2)

/-- A refused seat record: the edition is taken and SETTINGS_REJECTED posted (R3, R183). -/
def State.refuseSeat (s : State) (k : SeatNo) (edition : Word) (why : Reason) : State :=
  (s.takeEdition k edition).hand .settingsRejected (.seat k) (BitVec.ofNat 32 why.encode) 0 0

/-- A seat record that is not torn, checked and then adopted or refused; a waiting seat whose record made no request
of the Tail Pool retries at this place (R39, R183). -/
def State.takeSeat (s : State) (k : SeatNo) (edition : Word) (r : SeatRecord) : State :=
  match checkRecord s k r with
  | some why => (s.refuseSeat k edition why).retryTail k
  | none =>
    let x := s.adoptSeat k edition r
    if x.2 then x.1 else x.1.retryTail k

/-! ## Reading records (R178, R180) -/

/-- The first reading of a record's edition word: `some` edition when the record is changed.  A failed reading
posts READ_FAILED and counts as unchanged (R180). -/
def readEdition (e : Env) (src : Source) (a : Nat) (adopted : Option Word) (io : Io) : Option Word × Io :=
  let r := readReporting e src 0 a io
  (if r.1 = adopted then none else r.1, r.2)

/-- Read a changed record whole and then its edition a second time; `none` when it is torn or a read failed
(R180). -/
def readWhole (e : Env) (src : Source) (editionAt : Nat) (edition : Word) (words : List Nat) (io : Io) :
    Option (List Word) × Io :=
  let r := readRecord e src words io
  let again := readReporting e src 0 editionAt r.2
  (if again.1 = some edition then r.1 else none, again.2)

/-- A seat's record read at its place in the scan. -/
def readSeat (s : State) (k : SeatNo) (edition : Word) : Option (List Word) × Io :=
  readWhole s.env (.seat k) (seatBlockAt s.area.toNat k) edition (seatWords s.area.toNat k) s.io

/-- A changed seat record that has been read: taken, or discarded as torn or failed (R180). -/
def State.placeSeat (s : State) (k : SeatNo) (edition : Word) : Option (List Word) → State
  | none => s.retryTail k
  | some ws => s.takeSeat k edition (parseSeat ws)

/-- A seat's place in the scan (R179 step 4, R184). -/
def seatPlace (s : State) (x : SeatNo × Option Word) : State :=
  match x.2 with
  | none => s.retryTail x.1
  | some edition =>
    let r := readSeat s x.1 edition
    (s.setIo r.2).placeSeat x.1 edition r.1

/-- A stream's control words read at its place in the scan. -/
def readStream (s : State) (j : StreamNo) (edition : Word) : Option (List Word) × Io :=
  let base := streamAt s.area.toNat j
  readWhole s.env (.stream j) base edition [base + 4, base + 8] s.io

/-- A changed stream entry that has been read (R89, R180). -/
def State.placeStream (s : State) (j : StreamNo) (edition : Word) : Option (List Word) → State
  | none => s
  | some ws => s.modStream j (adoptStream edition ((wordAt ws 0).getLsbD 0) (decide (wordAt ws 1 = 1)))

/-- A stream's place in the scan (R89, R180). -/
def streamPlace (s : State) (x : StreamNo × Option Word) : State :=
  match x.2 with
  | none => s
  | some edition =>
    let r := readStream s x.1 edition
    (s.setIo r.2).placeStream x.1 edition r.1

/-! ## The header (R181, R182) -/

/-- A seat leaves service: taken to IDLE, its cells abandoned, its edition never adopted (R1). -/
def State.leaveService (s : State) (k : SeatNo) : State :=
  let old := s.seats[k].adopted
  let s := s.modAdopted k fun g => { g with routing := { g.routing with mode := .idle } }
  let s := s.enterIdle k old
  s.modSeat k fun x => { x with edition := none, prompt := x.prompt.markAll .abandoned }

/-- The seats a count of `n` in service leaves out, of those in service, in seat-number order. -/
def leavers (serving n : Nat) : List SeatNo :=
  (List.finRange 32).filter fun k => decide (n ≤ k.val) && decide (k.val < serving)

/-- T taken from a header: a change sets c to 0 (R195). -/
def TickMonitor.adoptPeriod (t : TickMonitor) (period : Nat) : TickMonitor :=
  { t with period := period, count := if period = t.period then t.count else 0 }

/-- A header adopted (R181). -/
def State.adoptHeader (s : State) (edition : Word) (h : HeaderRecord) : State :=
  let s := (leavers s.header.seats h.seats).foldl State.leaveService s
  { s with
    header :=
      { edition := some edition, layoutBad := false, adopted := true, seats := h.seats, serving := s.header.serving }
    sh := adoptSeatHighway (!s.header.adopted) h.sh s.sh
    nh := adoptNetHighway h.nh s.nh
    tick := s.tick.adoptPeriod h.period }

/-- A header of another layout version refused (R182). -/
def State.refuseHeader (s : State) (edition : Word) : State :=
  { s with header := { s.header with edition := some edition, layoutBad := true } }

/-- A header that is not torn: adopted or refused by its layout version (R181, R182). -/
def State.takeHeader (s : State) (edition : Word) (h : HeaderRecord) : State :=
  if h.layout = 1 then s.adoptHeader edition h else s.refuseHeader edition

/-- A changed header that has been read. -/
def State.placeHeader (s : State) (edition : Word) : Option (List Word) → State
  | none => s
  | some ws => s.takeHeader edition (parseHeader ws)

/-- The address of the header's edition word. -/
def headerEditionAt (s : State) : Nat := s.area.toNat + Config.headerAt + 4

/-- A changed header read and taken. -/
def State.readHeader (s : State) : Option Word → State
  | none => s
  | some edition =>
    let r := readWhole s.env .header (headerEditionAt s) edition (headerWords s.area.toNat) s.io
    (s.setIo r.2).placeHeader edition r.1

/-- Step 1 of the scan (R179). -/
def State.scanHeader (s : State) : State :=
  let r := readEdition s.env .header (headerEditionAt s) s.header.edition s.io
  (s.setIo r.2).readHeader r.1

/-! ## The scan (R179) -/

/-- The seats in service for the frame that a header of this scan has not taken out (R179 step 2, R113). -/
def State.scanned (s : State) : List SeatNo :=
  (List.finRange 32).filter fun k => decide (k.val < s.header.serving) && decide (k.val < s.header.seats)

/-- The edition word of one seat read in step 2. -/
def seatEdition (x : List (SeatNo × Option Word) × State) (k : SeatNo) : List (SeatNo × Option Word) × State :=
  let r := readEdition x.2.env (.seat k) (seatBlockAt x.2.area.toNat k) x.2.seats[k].edition x.2.io
  (x.1 ++ [(k, r.1)], x.2.setIo r.2)

/-- Step 2: the edition words of the seats. -/
def readSeatEditions (s : State) : List (SeatNo × Option Word) × State := s.scanned.foldl seatEdition ([], s)

/-- The edition word of one stream read in step 3. -/
def streamEdition (x : List (StreamNo × Option Word) × State) (j : StreamNo) :
    List (StreamNo × Option Word) × State :=
  let r := readEdition x.2.env (.stream j) (streamAt x.2.area.toNat j) x.2.streams[j].edition x.2.io
  (x.1 ++ [(j, r.1)], x.2.setIo r.2)

/-- Step 3: the edition words of the streams. -/
def readStreamEditions (s : State) : List (StreamNo × Option Word) × State :=
  (List.finRange 16).foldl streamEdition ([], s)

/-- The Tail Pool's retries at a boundary without an adoption scan of the seats (R37). -/
def State.retries (s : State) : State := s.scanned.foldl State.retryTail s

/-- The adoption scan of a boundary (R179); while LAYOUT_BAD is set only the retries are made (R37, R182). -/
def State.adoptionScan (s : State) : State :=
  let s := s.scanHeader
  if s.header.layoutBad then s.retries
  else
    let a := readSeatEditions s
    let b := readStreamEditions a.2
    b.1.foldl streamPlace (a.1.foldl seatPlace b.2)

/-- The cell scan of one seat (R113). -/
def scanSeatCells (s : State) (k : SeatNo) : State :=
  let r := scanCells s.env k s.seats[k].prompt s.io
  (s.modSeat k fun x => { x with prompt := r.1 }).setIo r.2

/-- The cell scan (R113). -/
def State.cellScan (s : State) : State := s.scanned.foldl scanSeatCells s

/-- The scans of a boundary: none in stand-alone operation but the retries (R37, R126, R179). -/
def State.scans (s : State) : State := if s.tick.standalone then s.retries else s.adoptionScan.cellScan

end Sys2Proof.Machine
end

