-- ==== Sys2Proof/Machine/Boundary.lean ====
section
/-! DEFINITION. The frame boundary (9.2, 10.3, 11.6): the work and the writes of the frame that ends, RUN, the opening
of the next frame, the Host Tick Monitor, and the scans. -/

namespace Sys2Proof.Machine

/-! ## The work of the frame that ends -/

/-- Every unit once: those an order names, then the seats and the streams it leaves out (R143, R189). -/
def workersOf (order : List Worker) : List Worker :=
  (order ++ (List.finRange 32).map Worker.seat ++ (List.finRange 16).map Worker.stream).eraseDups

/-- The fetch of one stream (R96). -/
def streamWork (j : StreamNo) (s : State) : State :=
  let r := fetchStream s.env j s.streams[j] s.io
  { s with streams := s.streams.set j r.1, io := r.2 }

/-- The work of one unit in a frame. -/
def unitWork (s0 : State) (s : State) : Worker → State
  | .seat k => seatWork s0 k s
  | .stream j => streamWork j s

/-- The write-backs of one stream at the end of a frame (R98, R105). -/
def unitBacks (s : State) : Worker → State
  | .seat _ => s
  | .stream j =>
    let r := writeBacks s.env j s.streams[j] s.io
    { s with streams := s.streams.set j r.1, io := r.2 }

/-- The part writes no report from the refusal of the first header after a reset until a header is adopted (R182). -/
def Header.silent (h : Header) : Bool := h.layoutBad && !h.adopted

/-- The report of one stream at the end of a frame (R107, R182; assumption 34). -/
def unitReport (s : State) : Worker → State
  | .seat _ => s
  | .stream j => if s.header.silent then s else s.setIo (writeStreamReport s.env j s.streams[j] s.io)

/-- The part tick word: the frame's number (R185). -/
def State.writePartTick (s : State) : State :=
  s.setIo (writeRecord s.env .header [(s.area.toNat + Config.headerAt + 0x28, s.frame)] s.io).2

/-- The stand-alone count at the end of a frame of work (R195). -/
def TickMonitor.endFrame (t : TickMonitor) : TickMonitor :=
  if t.standalone then { t with aloneFrames := countUp t.aloneFrames } else t

/-- Everything a frame of work does: the works of the seats and the fetches (R96, R142), the write-backs and the
stream reports (R98, R107), the part tick word (R185), then the held reads and the serving of the notices (R190,
R191).  Among the 16 streams the write-backs come in the order the command gives, and so do the reports after them: R98 and
R107 give no such order, and the same one for both is the model's choice (assumption 40). -/
def State.frameWork (s : State) (order : List Worker) : State :=
  let ws := workersOf order
  let a := ws.foldl (unitWork s) s
  let b := ws.foldl unitBacks a
  let d := (ws.foldl unitReport b).writePartTick
  let n := d.setIo (serveNotices d.env (heldReads d.env d.io))
  { n with tick := n.tick.endFrame }

/-! ## RUN at the boundary (R177) -/

/-- RUN 1→0 in every block (R22, R105, R109, R154, R159, R172). -/
def State.stopWork (s : State) : State :=
  { s.mapStreams stopStream with running := false, nh := s.nh.stop, sh := s.sh.stop }

/-- RUN 0→1 in a seat (R50, R68, R88, R128, R154). -/
def resumeSeat (x : Seat) : Seat :=
  { x with
    canceller := resumeCanceller x.canceller
    suppressor := resumeSuppressor x.suppressor
    kept := .zero
    prompt := resumePrompt x.prompt
    mixer := { x.mixer with ear := silence, line := silence, lineSlot := none, onAir := false, whisper := false } }

/-- RUN 0→1 in every block. -/
def State.resumeWork (s : State) : State :=
  { (s.mapStreams resumeStream).mapSeats resumeSeat with running := true, nh := s.nh.resume }

/-- The part acts on RUN as it stands at the boundary (R177). -/
def State.actOnRun (s : State) : State :=
  if s.running then (if s.regs.run then s else s.stopWork) else if s.regs.run then s.resumeWork else s

/-! ## The opening of a frame -/

/-- The timeline goes on: the next frame's number, its first cycle, and the restarts of the highway ports (R156, R158,
R162). -/
def State.nextFrame (s : State) : State :=
  { s with frame := s.frame + 1, cycle := 0, sh := s.sh.opened, nh := s.nh.opened }

/-- A cadence unit coming into service: STOPPED, in REMINDER use (R139); its position stays where it stood, as a
reminder stop leaves it (Table 7-1, assumption 33). -/
def enterServiceCadence (u : CadenceUnit) : CadenceUnit := { CadenceUnit.reset with position := u.position }

/-- A seat coming into service (R1, R69, R75, R87, R139, R153). -/
def enterService (x : Seat) : Seat :=
  { x with
    status := .reset
    canceller := enterServiceCanceller x.canceller
    suppressor := .reset
    arbiter := .reset
    kept := .zero
    cadence := enterServiceCadence x.cadence
    mixer := .reset }

/-- A seat as the frame opens: what the scan of the boundary before left governs it from now on (R2, R16, R34, R43,
R46, R64, R66, R131, R132, R138). -/
def promoteSeat (x : Seat) : Seat :=
  { x with
    governing := x.adopted
    keyMute := x.keyMute && !x.due.clearKeyMute
    canceller := promoteCanceller x.blocks.length x.due.zeroTaps x.canceller
    suppressor := promoteSuppressor x.due.initSuppressor x.suppressor
    cadence := { x.cadence with due := x.due.reminder, newPeriod := x.due.newPeriod }
    due := .none }

/-- One seat of a frame that opens; `new` says that it comes into service with the frame. -/
def openSeat (new : Bool) (x : Seat) : Seat := if new then enterService (promoteSeat x) else promoteSeat x

/-- Whether a seat comes into service with the frame that opens (R1, R141). -/
def State.entering (s : State) (k : SeatNo) : Bool :=
  decide (s.header.serving ≤ k.val) && decide (k.val < s.header.seats)

/-- The settings of the scan before take over (R2), the count of seats in service with them (R141), and
STATION_BASE is sampled (R174). -/
def State.promote (s : State) : State :=
  { s with
    seats := tabulate fun k => openSeat (s.entering k) s.seats[k]
    header := { s.header with serving := s.header.seats }
    area := s.regs.stationBase }

/-! ## The Host Tick Monitor (R195 to R198) -/

/-- An unchanged word: c rises, and the monitor expires when it reaches T (R195). -/
def TickMonitor.unchanged (t : TickMonitor) : TickMonitor :=
  if t.count + 1 = t.period then { t with count := 0, expired := true } else { t with count := t.count + 1 }

/-- A changed word becomes the last seen, and ends stand-alone operation (R195, R198). -/
def TickMonitor.changed (t : TickMonitor) (w : Word) : TickMonitor :=
  { t with last := some w, count := 0, standalone := false }

/-- The monitor's boundary work on the host tick word that was read; `none` is a failed read, which counts as
unchanged (R185, R195). -/
def TickMonitor.observe (t : TickMonitor) (word : Option Word) : TickMonitor :=
  if t.period = 0 then { t with last := word.orElse fun _ => t.last, count := 0 }
  else
    match word with
    | some w => if t.last = some w then t.unchanged else t.changed w
    | none => t.unchanged

/-- The Host Tick Monitor at a boundary: the word is read (R185), and a change in stand-alone operation posts RESUMED
with the new word and the frames spent there (R188, R198). -/
def State.monitorTick (s : State) : State :=
  let r := readReporting s.env .header 0 (s.area.toNat + Config.headerAt + 0x24) s.io
  let t := s.tick.observe r.1
  let s' := { s.setIo r.2 with tick := t }
  if s.tick.standalone && !t.standalone then
    s'.hand .resumed .tickMonitor (r.1.getD 0) (BitVec.ofNat 32 s.tick.aloneFrames) 0
  else s'

/-- The last host tick word seen, for a notice; while it is unset, a free value (R199, assumption 9). -/
def TickMonitor.lastWord (t : TickMonitor) : Word := t.last.getD Config.unsetTickWord

/-- The seats in seat-number order. -/
def seatNumbers : List SeatNo := List.finRange 32

/-- Entry to stand-alone operation (R197): the flag and the notice, every attachment list emptied with its notices
(R85), and every cell of every play order marked ABANDONED (R126). -/
def State.enterStandalone (s : State) : State :=
  let t : State := { s with tick := { s.tick with standalone := true, aloneFrames := 0 } }
  let t := t.hand .standaloneEntered .tickMonitor s.tick.lastWord 0 0
  let t := seatNumbers.foldl (fun x k => x.detachAll k 2) t
  t.mapSeats fun x => { x with prompt := x.prompt.markAll .abandoned }

/-- An expiry of the monitor (R196). -/
def State.expire (s : State) : State :=
  let t : State := { s with tick := { s.tick with expired := false } }
  if s.tick.standalone then t
  else if tickLateThere s.io then t.enterStandalone
  else t.hand .tickLate .tickMonitor (BitVec.ofNat 32 s.tick.period) s.tick.lastWord 0

/-- An expiry with the scans of its boundary, which the monitor's work comes before (R195). -/
def State.expireAndScan (s : State) : State := s.expire.scans

/-! ## The boundary -/

/-- The boundary work of a part that runs: the settings of the scan before take over, the monitor works, and the scans
are made; after an expiry they wait for HOST_TICK_EXPIRY (assumption 2). -/
def State.openWork (s : State) : State :=
  let s := s.promote.monitorTick
  if s.tick.expired then s else s.scans

/-- An expiry whose HOST_TICK_EXPIRY has not been taken when its frame ends (assumption 2). -/
def State.settleExpiry (s : State) : State := if s.tick.expired then s.expireAndScan else s

/-- The frame boundary that ends the frame in progress and opens the next (R158, R177). -/
def State.boundary (s : State) (order : List Worker) : State :=
  let s := s.settleExpiry
  let s := if s.running then s.frameWork order else s
  let s := s.nextFrame.actOnRun
  if s.running then s.openWork else s

end Sys2Proof.Machine
end

