-- ==== Sys2Proof/Machine/Events.lean ====
section
/-! DEFINITION. The meanings of the commands that time and the highways give: the Seat Highway cycle and its debounce
(9.1, 9.4), the Network Highway's events (9.5 to 9.7), the frame boundary and the expiry of the Host Tick Monitor.

An event that cannot come about in a state, because the spec gives the part no such event there, changes nothing
(assumption 10). -/

namespace Sys2Proof.Machine

/-- The part through one Seat Highway cycle (R155, R160, R162, R167, R168). -/
def State.seatCycle (s : State) (up : Vector Word 32) : State :=
  { s.setNet (netPortCycle s.running (transmitEntry s) s.nh) with sh := seatPortCycle s up, cycle := s.cycle + 1 }

/-- SEAT_HIGHWAY_CYCLE (R155); the 80 cycles of a frame end at its boundary. -/
def execSeatHighwayCycle (up : Vector Word 32) (s : State) : Host.Outcome State Fault Refusal :=
  .next (if s.cycle < Config.frameCycles then s.seatCycle up else s)

/-- DEBOUNCE_COMPLETE (R159). -/
def execDebounceComplete (slot : SeatNo) (bit : StatusBit) (s : State) : Host.Outcome State Fault Refusal :=
  .next { s with sh := completeDebounce slot bit s.sh }

/-- RECEIVE_STORE_ARRIVAL (R165, R166, R167). -/
def execReceiveStoreArrival (slots : Vector Word 33) (s : State) : Host.Outcome State Fault Refusal :=
  .next (s.setNet (arrive s.running slots s.nh))

/-- TRANSMIT_STORE_READ (R168). -/
def execTransmitStoreRead (s : State) : Host.Outcome State Fault Refusal :=
  .next (s.setNet (readTx s.running s.nh))

/-- CYCLE_START (R163). -/
def execCycleStart (bitClocks : Nat) (s : State) : Host.Outcome State Fault Refusal :=
  .next (s.setNet (seeCycleStart s.running bitClocks s.nh))

/-- SYNC_TEST (R164). -/
def execSyncTest (sync : List Bool) (s : State) : Host.Outcome State Fault Refusal :=
  .next (s.setNet (testSync sync s.nh))

/-- FRAME_BOUNDARY (R158, R177): the 80th cycle has ended the frame. -/
def execFrameBoundary (turns : List BusTurn) (order : List Worker) (s : State) : Host.Outcome State Fault Refusal :=
  .next (if s.cycle = Config.frameCycles then ((s.loadTurns turns).boundary order).drained else s)

/-- HOST_TICK_EXPIRY (R196), with the scans of its boundary (assumption 2). -/
def execHostTickExpiry (turns : List BusTurn) (s : State) : Host.Outcome State Fault Refusal :=
  .next (if s.tick.expired then (s.loadTurns turns).expireAndScan.drained else s)

end Sys2Proof.Machine
end

