-- ==== Sys2Proof/Machine/Registers.lean ====
section
/-! DEFINITION. The meanings of the register commands: the two resets and the host's register writes (10.1, 10.2). -/

namespace Sys2Proof.Machine

/-- A pin reset of a state: every block at its reset values (R175).  The commands that wait and host memory stand
outside the part. -/
def State.pinReset (s : State) : State :=
  { State.reset with pending := s.pending, io := { Io.reset with mem := s.io.mem } }

/-- A soft reset of a state: the base, window and mask registers are kept, RUN is 0, and everything else has the
values of a pin reset (R176). -/
def State.softReset (s : State) : State := { s.pinReset with regs := { s.regs with run := false } }

/-- SOFT_RESET of a word written to CONTROL (Table 12-1). -/
def asksReset (w : Word) : Bool := w.getLsbD 1

/-- The enable mask of a word written to CONTROL (Table 12-1). -/
def maskOf (w : Word) : BitVec 6 := w.extractLsb' 8 6

/-- Replace the host-written registers by a function of them. -/
def State.modRegs (s : State) (f : Regs → Regs) : State := { s with regs := f s.regs }

/-- STATION_BASE as held: its fourteen lowest bits read 0 (R174). -/
def alignBase (w : Word) : Word := w &&& 0xFFFFC000#32

/-- A window register as held: its two lowest bits read 0 (R173). -/
def alignWindow (w : Word) : Word := w &&& 0xFFFFFFFC#32

/-- PIN_RESET (R175). -/
def execPinReset (s : State) : Host.Outcome State Fault Refusal := .next s.pinReset

/-- SOFT_RESET: a CONTROL write with SOFT_RESET 1 (R176). -/
def execSoftReset (s : State) : Host.Outcome State Fault Refusal := .next s.softReset

/-- RUN of a CONTROL write; a word with SOFT_RESET 1 makes a soft reset and gives no other field (R173). -/
def execRun (w : Word) (s : State) : Host.Outcome State Fault Refusal :=
  .next (if asksReset w then s.softReset else s.modRegs fun r => { r with run := w.getLsbD 0 })

/-- The enable mask of a CONTROL write; a word with SOFT_RESET 1 makes a soft reset and gives no other field
(R173). -/
def execEnableMask (w : Word) (s : State) : Host.Outcome State Fault Refusal :=
  .next (if asksReset w then s.softReset else s.modRegs fun r => { r with enableMask := maskOf w })

/-- A STATUS write: WINDOW_FAULT 1 clears WINDOW_FAULT, and every other field is ignored (R173). -/
def execWindowFaultClear (w : Word) (s : State) : Host.Outcome State Fault Refusal :=
  .next (if w.getLsbD 3 then s.setIo { s.io with windowFault := false } else s)

/-- A write to STATION_BASE, WINDOW_BASE, WINDOW_LIMIT or FRAME (R173, R174). -/
def execRegisterWrite (r : HostReg) (w : Word) (s : State) : Host.Outcome State Fault Refusal :=
  match r with
  | .stationBase => .next (s.modRegs fun x => { x with stationBase := alignBase w })
  | .windowBase => .next (s.modRegs fun x => { x with windowBase := alignWindow w })
  | .windowLimit => .next (s.modRegs fun x => { x with windowLimit := alignWindow w })
  | .frame => .next s

end Sys2Proof.Machine
end

