-- ==== Sys2Proof/Machine/Dispatch.lean ====
section
/-! DEFINITION. The command dispatch: one arm for each row of the table. -/

namespace Sys2Proof.Machine

def exec (i : Instr) (s : State) : Host.Outcome State Fault Refusal :=
  match i with
  | .pinReset => Sys2Proof.Machine.execPinReset s
  | .softReset => Sys2Proof.Machine.execSoftReset s
  | .run w => Sys2Proof.Machine.execRun w s
  | .enableMask w => Sys2Proof.Machine.execEnableMask w s
  | .windowFaultClear w => Sys2Proof.Machine.execWindowFaultClear w s
  | .registerWrite r w => Sys2Proof.Machine.execRegisterWrite r w s
  | .seatHighwayCycle up => Sys2Proof.Machine.execSeatHighwayCycle up s
  | .debounceComplete slot bit => Sys2Proof.Machine.execDebounceComplete slot bit s
  | .receiveStoreArrival slots => Sys2Proof.Machine.execReceiveStoreArrival slots s
  | .transmitStoreRead => Sys2Proof.Machine.execTransmitStoreRead s
  | .cycleStart bits => Sys2Proof.Machine.execCycleStart bits s
  | .syncTest sync => Sys2Proof.Machine.execSyncTest sync s
  | .frameBoundary turns order => Sys2Proof.Machine.execFrameBoundary turns order s
  | .hostTickExpiry turns => Sys2Proof.Machine.execHostTickExpiry turns s

end Sys2Proof.Machine
end

