-- ==== Sys2Proof/Safety.lean ====
section
/-! DEFINITION. What counts as a safe run: the laws the spec states of every state, as predicates that claims use. -/

namespace Sys2Proof.Machine

/-! ## Laws of a state -/

/-- The registers read 0 in the bits that R173 and R174 say are ignored. -/
def Regs.aligned (r : Regs) : Prop :=
  r.stationBase.extractLsb' 0 14 = 0 ∧ r.windowBase.extractLsb' 0 2 = 0 ∧ r.windowLimit.extractLsb' 0 2 = 0

/-- The sampled station area lies on a 16 KiB boundary (R174). -/
def State.areaAligned (s : State) : Prop := s.area.extractLsb' 0 14 = 0

/-- No source and code pair appears twice in a pending list (R189). -/
def noRepeats (ns : List Notice) : Prop := (ns.map fun n => (n.code, n.source)).Nodup

/-- A class's pending list holds notices of the class, no event twice (R189). -/
def Io.classOk (io : Io) (c : NoticeClass) : Prop :=
  noRepeats (io.cls c).waiting ∧ ∀ n ∈ (io.cls c).waiting, n.code.cls = c

/-- Every pending list is as R189 has it. -/
def Io.noticesOk (io : Io) : Prop := ∀ c, io.classOk c

/-- Both elastic stores hold at most 64 cycles (R167, R168), and the consecutive failure count lies in 0..32
(R166). -/
def NetPort.bounded (p : NetPort) : Prop := p.rx.length ≤ 64 ∧ p.tx.length ≤ 64 ∧ p.consecutive ≤ 32

/-- The stores of a port that is not LOCKED are empty (R162, R167, R168). -/
def NetPort.storesOk (p : NetPort) : Prop := p.lock ≠ .locked → p.rx = [] ∧ p.tx = []

/-- The tail blocks of all seats' lists, in seat-number order. -/
def State.heldBlocks (s : State) : List Nat := s.seats.toList.flatMap Seat.blocks

/-- The free list is in block order, and every tail block is once in it or in one seat's list (R36). -/
def State.poolOk (s : State) : Prop :=
  s.pool.Pairwise (· < ·) ∧ (s.pool ++ s.heldBlocks).Perm (List.range Config.tailBlocks)

/-- Whether a seat with these settings runs its canceller on tail blocks: in TALK or HOLD with ec_enable 1 (R40). -/
def Settings.runsEcho (g : Settings) : Bool := g.routing.mode.holdsSlot && g.echo.enable

/-- Blocks and the waiting condition belong to seats in TALK or HOLD with ec_enable 1 (R39, R40), a waiting seat holds
none, and no seat holds more than its request (R38, R41). -/
def State.tailOk (s : State) : Prop :=
  ∀ k : SeatNo,
    (s.seats[k].blocks ≠ [] → s.seats[k].adopted.runsEcho = true) ∧
    (s.seats[k].waiting = true → s.seats[k].adopted.runsEcho = true ∧ s.seats[k].blocks = []) ∧
    s.seats[k].blocks.length ≤ s.seats[k].adopted.echo.tailRequest

/-- The ECHO settings lie in the ranges of R44 and R45. -/
def Echo.inRange (e : Echo) : Prop :=
  (1 ≤ e.tailFloor ∧ e.tailFloor ≤ e.tailRequest ∧ e.tailRequest ≤ 16) ∧ e.bulkDelay ≤ 1023 ∧
    (1 ≤ e.stepShift ∧ e.stepShift ≤ 15) ∧ (1 ≤ e.talkRatioShift ∧ e.talkRatioShift ≤ 3) ∧ e.talkHangover ≤ 100 ∧
    e.referenceFloor ≤ 2147483647 ∧ e.residualGain ≤ 16384

/-- The NOISE settings lie in the ranges of R65. -/
def Noise.inRange (n : Noise) : Prop :=
  (∀ i : Fin 8, n.gainTable[i] ≤ 16384) ∧ (4 ≤ n.floorRiseShift ∧ n.floorRiseShift ≤ 12) ∧
    (1 ≤ n.releaseStep ∧ n.releaseStep ≤ 16384) ∧ (1 ≤ n.vadBand ∧ n.vadBand ≤ 7) ∧ n.vadHangover ≤ 255

/-- The LEVELS settings lie in the ranges of R149. -/
def Levels.inRange (l : Levels) : Prop :=
  l.mic ≤ 32767 ∧ l.cust ≤ 32767 ∧ l.side ≤ 32767 ∧ l.whisper ≤ 32767 ∧ l.hold ≤ 32767 ∧ l.listen ≤ 32767 ∧
    l.barge ≤ 32767 ∧ l.duck ≤ 16384

/-- The CADENCE settings lie in the ranges of Table 7-2 (R137). -/
def Cadence.inRange (x : Cadence) : Prop :=
  (4 ≤ x.halfPeriod ∧ x.halfPeriod ≤ 200) ∧ x.amplitude ≤ 32767 ∧ (1 ≤ x.onFrames ∧ x.onFrames ≤ 400) ∧
    x.offFrames ≤ 4000

/-- A seat's settings lie in their ranges. -/
def Settings.inRange (g : Settings) : Prop :=
  g.echo.inRange ∧ g.noise.inRange ∧ g.levels.inRange ∧ g.cadence.inRange

/-- Adopted and governing settings lie in their ranges, and so do the applied gain of R56 and the duck value of
R80. -/
def Seat.settingsOk (x : Seat) : Prop :=
  x.adopted.inRange ∧ x.governing.inRange ∧ x.suppressor.gain ≤ 16384 ∧ x.arbiter.duck ≤ 16384

/-- Every seat's settings and gains lie in their ranges. -/
def State.settingsOk (s : State) : Prop := ∀ k : SeatNo, s.seats[k].settingsOk

/-- The law of the slot map (R6): a seat in TALK or HOLD holds the slot its nh_slot names and no other, a seat in IDLE
or SUPERVISE holds none, and no two seats hold one slot. -/
def State.slotsOk (s : State) : Prop :=
  (∀ k : SeatNo, s.seats[k].adopted.routing.mode.holdsSlot = true →
      ∃ n : SlotNo, s.seats[k].adopted.routing.nhSlot = some n.val) ∧
  (∀ (k : SeatNo) (n : SlotNo), s.slotMap[n] = some k ↔
      s.seats[k].adopted.routing.mode.holdsSlot = true ∧ s.seats[k].adopted.routing.nhSlot = some n.val) ∧
  ∀ j k : SeatNo, j ≠ k → s.seats[j].adopted.routing.mode.holdsSlot = true →
      s.seats[k].adopted.routing.mode.holdsSlot = true →
      s.seats[j].adopted.routing.nhSlot ≠ s.seats[k].adopted.routing.nhSlot

/-- Whether a seat's adopted settings make it a listener of a stream (R92). -/
def Settings.listensTo (g : Settings) (j : StreamNo) : Bool :=
  decide (g.routing.mode = .hold) && decide (g.routing.holdStream = j.val)

/-- Every stream's listener count is the number of seats in HOLD that name it (R92). -/
def State.listenersOk (s : State) : Prop :=
  ∀ j : StreamNo, s.streams[j].listeners = (List.finRange 32).countP fun k => s.seats[k].adopted.listensTo j

/-- The law of supervision (R74), with the two sides of every attachment in agreement.  The lists are empty from entry
to stand-alone operation on, and so are those that govern a frame of it after the first. -/
def State.attachmentsOk (s : State) : Prop :=
  (∀ t : SeatNo, s.seats[t].adopted.supervisors.length ≤ 2 ∧
      (s.seats[t].adopted.supervisors.map Attachment.seat).Nodup ∧
      (s.seats[t].adopted.supervisors ≠ [] → s.seats[t].adopted.routing.mode.holdsSlot = true)) ∧
  (∀ k t : SeatNo, s.seats[k].adopted.attachedTo = some t ↔
      ∃ a ∈ s.seats[t].adopted.supervisors, a.seat = k) ∧
  (∀ k t : SeatNo, s.seats[k].adopted.attachedTo = some t → s.seats[k].adopted.routing.mode = .supervise) ∧
  (s.tick.standalone = true → ∀ t : SeatNo, s.seats[t].adopted.supervisors = []) ∧
  (s.tick.standalone = true → s.running = true → 1 ≤ s.tick.aloneFrames →
    ∀ t : SeatNo, s.seats[t].governing.supervisors = [])

/-- The law of a play order (R114): no cell twice, and only the first cell has been written PLAYING or PAUSED. -/
def PromptUnit.orderOk (p : PromptUnit) : Prop :=
  (p.order.map Cue.cell).Nodup ∧ (∀ q ∈ p.order.tail, q.expected = .posted) ∧
    ∀ q ∈ p.order, q.expected = .posted ∨ q.expected = .playing ∨ q.expected = .paused

/-- Every seat's play order is as R114 has it. -/
def State.ordersOk (s : State) : Prop := ∀ k : SeatNo, s.seats[k].prompt.orderOk

/-- A debounce count stands at 16 at most (R159, assumption 3). -/
def SlotStatus.countsOk (x : SlotStatus) : Prop :=
  x.present.count ≤ 16 ∧ x.muteKey.count ≤ 16 ∧ x.talkKey.count ≤ 16

/-- The timeline within a frame (R158): at most 80 cycles, with one row of samples of each highway for each, and no
debounce count past 16. -/
def State.timelineOk (s : State) : Prop :=
  s.cycle ≤ 80 ∧ s.sh.mics.length = s.cycle ∧ s.nh.ys.length = s.cycle ∧ ∀ k : SeatNo, s.sh.slots[k].countsOk

/-- Every frame of samples that one seat leaves for another place or another frame is whole (0.4, R75, R118, R146). -/
def Seat.framesOk (x : Seat) : Prop :=
  x.kept.cust.length = 80 ∧ x.kept.sent.length = 80 ∧ x.mixer.ear.length = 80 ∧ x.mixer.line.length = 80 ∧
    x.prompt.buffer.length = 80

/-- Every seat's frames and every stream's buffer hold 80 samples (R96). -/
def State.framesOk (s : State) : Prop :=
  (∀ k : SeatNo, s.seats[k].framesOk) ∧ ∀ j : StreamNo, s.streams[j].buffer.length = 80

/-! ## The write window -/

/-- An address outside the write window: no word the part may write covers it (R186). -/
def outsideWindow (r : Regs) (a : Nat) : Prop := ¬ (r.windowBase.toNat ≤ a ∧ a < r.windowLimit.toNat)

/-- The turns of a command bring no host write to an address. -/
def noHostWriteAt (a : Nat) (ts : List BusTurn) : Prop := ∀ t ∈ ts, ∀ w ∈ t.writes, w.1.toNat ≠ a

/-! ## Gates and segments, as the rules put them -/

/-- The gate of an attachment is on: a WHISPER or BARGE supervisor whose voice flag of the frame before is 1, and its
TALK_KEY too when it is push-to-talk (R76). -/
def gateIsOn (kept : SeatNo → Kept) (a : Attachment) : Bool :=
  decide (a.kind ≠ .listen) && (kept a.seat).voice && (!a.pushToTalk || (kept a.seat).talkKey)

/-- A count that makes a segment playable: nonzero, and not bad (R91, R95). -/
def playableCount (count : Word) : Prop :=
  count.toInt ≠ 0 ∧ -16777215 ≤ count.toInt ∧ count.toInt ≤ 16777215

/-- The position on entering a segment: a one-shot of a positive count, a loop of a negative one, from the address with
its lowest bit 0 (R91, R95). -/
def positionAt (g : Segment) (count address : Word) : Position :=
  if 0 < count.toInt then .oneShot g count.toInt.toNat (address &&& 0xFFFFFFFE#32)
  else .loop g (address &&& 0xFFFFFFFE#32) count.toInt.natAbs 0

end Sys2Proof.Machine
end

