-- ==== Sys2Proof/Certificates/Slice0/Obligations.lean ====
section
/-! DEFINITION. The statements for the provers.  OBLIGATIONS.json gives each its title, tier and source. -/

open Sys2Proof Sys2Proof.Machine

/-! ## The queue -/

/-- A step executes the command at the front of the queue with the queue's rest. -/
def Obligations.StepTakesFrontCommand : Prop :=
  ∀ (i : Instr) (rest : List Instr) (s : State),
    step { s with pending := i :: rest } = exec i { s with pending := rest }

/-- With no command waiting the part idles (assumption 1), and an event that the part does not meet in a state changes
nothing (assumption 10). -/
def Obligations.OutOfTurnEventsChangeNothing : Prop :=
  (∀ s : State, s.pending = [] → step s = .next s) ∧
  (∀ (up : Vector Word 32) (s : State), s.cycle = 80 → exec (.seatHighwayCycle up) s = .next s) ∧
  (∀ (turns : List BusTurn) (order : List Worker) (s : State), s.cycle < 80 →
    exec (.frameBoundary turns order) s = .next s) ∧
  (∀ (turns : List BusTurn) (s : State), s.tick.expired = false → exec (.hostTickExpiry turns) s = .next s) ∧
  (∀ (bits : Nat) (s : State), s.nh.lock ≠ .hunt → exec (.cycleStart bits) s = .next s) ∧
  ∀ (sync : List Bool) (s : State), s.nh.lock ≠ .locked ∨ s.nh.current.lead = true →
    exec (.syncTest sync) s = .next s

/-! ## Resets and registers -/

/-- A pin reset completes: every register reads 0 but FRAME's own frame number, which is 0 too, the interrupt line is
inactive, and every block has its reset values; the waiting commands and host memory stand. -/
def Obligations.PinResetCompletes : Prop :=
  ∀ s : State, ∃ t, exec .pinReset s = .next t ∧
    t = { State.reset with pending := s.pending, io := { Io.reset with mem := s.io.mem } } ∧
    (∀ r : Reg, t.readRegister r = 0) ∧ t.interrupt = false

/-- A soft reset completes: the base, window and mask registers stand, RUN is 0, and all else is as after a pin
reset. -/
def Obligations.SoftResetCompletes : Prop :=
  ∀ s : State, ∃ t, exec .softReset s = .next t ∧
    t = { State.reset with pending := s.pending, regs := { s.regs with run := false },
                           io := { Io.reset with mem := s.io.mem } } ∧
    t.readRegister .stationBase = s.readRegister .stationBase ∧
    t.readRegister .windowBase = s.readRegister .windowBase ∧
    t.readRegister .windowLimit = s.readRegister .windowLimit ∧ t.regs.enableMask = s.regs.enableMask ∧
    t.readRegister .status = 0 ∧ t.readRegister .frame = 0 ∧ t.interrupt = false

/-- A CONTROL write as the model's two commands (assumption 7, a DESIGN CHOICE: the table has a row for each field): each
carries the whole word and takes one field.  With SOFT_RESET 0 the one takes RUN and the other the enable mask, at once,
and each changes nothing else; with SOFT_RESET 1 either makes a soft reset and takes no field. -/
def Obligations.ControlWriteCompletes : Prop :=
  ∀ (w : Word) (s : State),
    (w.getLsbD 1 = false →
      exec (.run w) s = .next { s with regs := { s.regs with run := w.getLsbD 0 } } ∧
      exec (.enableMask w) s = .next { s with regs := { s.regs with enableMask := w.extractLsb' 8 6 } }) ∧
    (w.getLsbD 1 = true → exec (.run w) s = exec .softReset s ∧ exec (.enableMask w) s = exec .softReset s)

/-- The interrupt line is active exactly while a class is posted and enabled, a write of the enable mask acts on it at
once, and STATUS shows the posted flag of class n in bit 8 + n, its other flags in bits 0 to 3, the lock state of the
Network Highway in bits 17..16 (0 DOWN, 1 HUNT, 2 LOCKED), and 0 elsewhere.  CONTROL reads RUN in bit 0, the enable mask
in bits 13..8 and 0 elsewhere, SOFT_RESET among them; STATION_BASE and the window registers read as they stand; FRAME
reads the frame number. -/
def Obligations.InterruptFollowsMask : Prop :=
  (∀ s : State, s.interrupt = true ↔ ∃ c : NoticeClass, s.io.posted c = true ∧
    s.regs.enableMask.getLsbD c.number = true) ∧
  (∀ (w : Word) (s : State), w.getLsbD 1 = false → ∃ t, exec (.enableMask w) s = .next t ∧
    (t.interrupt = true ↔ ∃ c : NoticeClass, s.io.posted c = true ∧ w.getLsbD (8 + c.number) = true)) ∧
  (∀ (s : State) (c : NoticeClass), (s.readRegister .status).getLsbD (8 + c.number) = s.io.posted c ∧
    (s.readRegister .status).getLsbD 0 = s.running ∧ (s.readRegister .status).getLsbD 1 = s.tick.standalone ∧
    (s.readRegister .status).getLsbD 2 = s.header.layoutBad ∧ (s.readRegister .status).getLsbD 3 = s.io.windowFault ∧
    (s.readRegister .status).extractLsb' 16 2 = (match s.nh.lock with
      | .down => 0
      | .hunt => 1
      | .locked => 2) ∧
    (s.readRegister .status).extractLsb' 4 4 = 0 ∧ (s.readRegister .status).extractLsb' 14 2 = 0 ∧
    (s.readRegister .status).extractLsb' 18 14 = 0) ∧
  ∀ s : State, (s.readRegister .control).getLsbD 0 = s.regs.run ∧
    (s.readRegister .control).extractLsb' 8 6 = s.regs.enableMask ∧
    (s.readRegister .control).extractLsb' 1 7 = 0 ∧ (s.readRegister .control).extractLsb' 14 18 = 0 ∧
    s.readRegister .stationBase = s.regs.stationBase ∧ s.readRegister .windowBase = s.regs.windowBase ∧
    s.readRegister .windowLimit = s.regs.windowLimit ∧ s.readRegister .frame = s.frame

/-- A STATUS write with WINDOW_FAULT 1 clears WINDOW_FAULT; any other STATUS write changes nothing. -/
def Obligations.WindowFaultClearCompletes : Prop :=
  ∀ (w : Word) (s : State),
    (w.getLsbD 3 = true → ∃ t, exec (.windowFaultClear w) s = .next t ∧
      t = { s with io := { s.io with windowFault := false } } ∧ (t.readRegister .status).getLsbD 3 = false) ∧
    (w.getLsbD 3 = false → exec (.windowFaultClear w) s = .next s)

/-- The address registers hold the written word with the ignored low bits 0, and read it back; a write to FRAME is
ignored; nothing else changes. -/
def Obligations.RegisterWriteCompletes : Prop :=
  ∀ (w : Word) (s : State),
    (∃ t, exec (.registerWrite .stationBase w) s = .next t ∧
      t = { s with regs := { s.regs with stationBase := t.readRegister .stationBase } } ∧
      ∀ i, (t.readRegister .stationBase).getLsbD i = (decide (14 ≤ i) && w.getLsbD i)) ∧
    (∃ t, exec (.registerWrite .windowBase w) s = .next t ∧
      t = { s with regs := { s.regs with windowBase := t.readRegister .windowBase } } ∧
      ∀ i, (t.readRegister .windowBase).getLsbD i = (decide (2 ≤ i) && w.getLsbD i)) ∧
    (∃ t, exec (.registerWrite .windowLimit w) s = .next t ∧
      t = { s with regs := { s.regs with windowLimit := t.readRegister .windowLimit } } ∧
      ∀ i, (t.readRegister .windowLimit).getLsbD i = (decide (2 ≤ i) && w.getLsbD i)) ∧
    exec (.registerWrite .frame w) s = .next s

/-! ## The Seat Highway -/

/-- A Seat Highway cycle of a frame completes: the timeline moves on by one cycle; a RUNNING port of a working part takes
each slot's MIC sample and runs its debouncing, and otherwise takes zeros and leaves the status; the downstream slot of
a seat in service carries its EAR sample of this cycle with its two indicator bits, and every other slot is 0.  The
Network Highway Port delivers its oldest received entry to the timeline and takes an entry of LINE samples to send, each
with its slip at its limit; not LOCKED it delivers zeros and marks the frame, and stopped it delivers zeros; a restarted
LEAD port then goes to LOCKED.  The registers, the seats, the streams and host memory stand, and only HIGHWAY notices are
handed, a receive slip before a transmit slip (assumption 32).  That a LEAD port which locks while the part is stopped leaves
both stores empty is assumption 22 (DEDUCED from R163 and R172), and that a debounce count of 16 is left standing for
DEBOUNCE_COMPLETE is assumption 3 (a DESIGN CHOICE). -/
def Obligations.SeatHighwayCycleCompletes : Prop :=
  ∀ (up : Vector Word 32) (s : State), s.cycle < 80 → ∃ t row, exec (.seatHighwayCycle up) s = .next t ∧
    t = { s with cycle := s.cycle + 1, sh := t.sh, nh := t.nh, io := t.io } ∧
    t.sh = { s.sh with slots := t.sh.slots, mics := s.sh.mics ++ [row], line := t.sh.line } ∧
    t.io = { s.io with highwayClass := t.io.highwayClass } ∧ t.io.highwayClass.shown = s.io.highwayClass.shown ∧
    (s.sh.running = true → s.running = true → ∀ k : SeatNo, row[k] = (up[k].extractLsb' 16 16).toInt ∧
      t.sh.slots[k].present = s.sh.slots[k].present.sampled (up[k].getLsbD 0) ∧
      t.sh.slots[k].muteKey = s.sh.slots[k].muteKey.sampled (up[k].getLsbD 1) ∧
      t.sh.slots[k].talkKey = s.sh.slots[k].talkKey.sampled (up[k].getLsbD 2)) ∧
    (s.sh.running = false ∨ s.running = false → t.sh.slots = s.sh.slots ∧ ∀ k : SeatNo, row[k] = 0) ∧
    (∀ k : SeatNo, t.sh.line[k] =
      if s.sh.running = true ∧ s.running = true ∧ k.val < s.header.serving then
        downstreamWord (s.seats[k].mixer.ear.getD s.cycle 0) s.seats[k].mixer.whisper s.seats[k].mixer.onAir
      else 0) ∧
    ∃ x : Vector Sample 32,
      (∀ n : SlotNo, (∀ j : SeatNo, s.seats[j].mixer.lineSlot ≠ some n.val) → x[n] = 0) ∧
      (∀ (n : SlotNo) (j : SeatNo), s.seats[j].mixer.lineSlot = some n.val →
        (∀ i : SeatNo, i < j → s.seats[i].mixer.lineSlot ≠ some n.val) →
        x[n] = s.seats[j].mixer.line.getD s.cycle 0) ∧
      let none32 : Vector Sample 32 := Vector.replicate 32 0
      let works := s.nh.lock = .locked ∧ s.running = true
      let entry := s.nh.rx.head?.getD s.nh.lastRx
      let empty := works ∧ s.nh.rx = []
      let full := works ∧ 64 ≤ s.nh.tx.length
      let rxSlips := if empty then countUp s.nh.rxSlips else s.nh.rxSlips
      let txSlips := if full then countUp s.nh.txSlips else s.nh.txSlips
      let p : NetPort :=
        if works then
          { s.nh with rx := s.nh.rx.tail, lastRx := entry, ys := s.nh.ys ++ [entry.samples],
                      fault := s.nh.fault || entry.failed || decide empty || decide full,
                      tx := (if full then s.nh.tx.tail else s.nh.tx) ++ [x], rxSlips := rxSlips, txSlips := txSlips }
        else { s.nh with ys := s.nh.ys ++ [none32], fault := s.nh.fault || decide (s.nh.lock ≠ .locked) }
      t.nh = (if s.nh.leadStart = true then
        { p with leadStart := false, lock := .locked, lastGood := none32, miss := 0, consecutive := 0, storm := false,
                 rx := if s.running = true then List.replicate 32 ⟨none32, false⟩ else [],
                 tx := if s.running = true then List.replicate 32 none32 else [] }
        else p) ∧
      t.io = handAll s.env
        ((if empty then
            [(⟨.slip, .network, 1, BitVec.ofNat 32 rxSlips, BitVec.ofNat 32 s.nh.txSlips⟩ : NoticeOut)] else []) ++
          (if full then [⟨.slip, .network, 2, BitVec.ofNat 32 rxSlips, BitVec.ofNat 32 txSlips⟩] else []) ++
          if s.nh.leadStart = true then [⟨.locked, .network, if s.nh.current.lead then 1 else 0, 0, 0⟩] else []) s.io

/-- A downstream slot word: the EAR sample in the upper half, WHISPER in bit 1, ON_AIR in bit 0 and every other bit 0
(Table 9-1). -/
def Obligations.DownstreamSlotWord : Prop :=
  ∀ (ear : Sample) (whisper onAir : Bool), -32768 ≤ ear → ear ≤ 32767 →
    ((downstreamWord ear whisper onAir).extractLsb' 16 16).toInt = ear ∧
    (downstreamWord ear whisper onAir).getLsbD 1 = whisper ∧
    (downstreamWord ear whisper onAir).getLsbD 0 = onAir ∧
    ∀ i, 2 ≤ i → i < 16 → (downstreamWord ear whisper onAir).getLsbD i = false

/-- DEBOUNCE_COMPLETE completes: a count of 16 of the named bit is taken, and nothing else changes.  That a count stands at
16 until this command or a later use takes it is the model's choice (assumption 3; R159 takes it at the 16th cycle).  Fewer
than 16 samples of the other value leave the debounced value as it was, one sample of the debounced value sets the count
to 0, and the value is the sampled one once 16 in a row have come and been taken. -/
def Obligations.DebounceCompleteCompletes : Prop :=
  (∀ (slot : SeatNo) (bit : StatusBit) (s : State), ∃ t, exec (.debounceComplete slot bit) s = .next t ∧
    t = { s with sh := { s.sh with slots := t.sh.slots } } ∧
    (∀ k : SeatNo, k ≠ slot → t.sh.slots[k] = s.sh.slots[k]) ∧
    t.sh.slots[slot] = s.sh.slots[slot].modBit bit fun d =>
      if 16 ≤ d.count then { value := !d.value, count := 0 } else d) ∧
  (∀ (v : Bool) (n : Nat), n < 16 →
    (List.replicate n (!v)).foldl (fun d b => d.sampled b) ⟨v, 0⟩ = (⟨v, n⟩ : Debounce) ∧
    (⟨v, n⟩ : Debounce).settled = ⟨v, n⟩ ∧ (⟨v, n⟩ : Debounce).sampled v = ⟨v, 0⟩) ∧
  ∀ v : Bool, ((List.replicate 16 (!v)).foldl (fun d b => d.sampled b) (⟨v, 0⟩ : Debounce)).settled = ⟨!v, 0⟩

/-! ## The Network Highway -/

/-- A cycle arriving while the port is LOCKED and the part works completes: it is good when checking is off or its check
agrees, and enters the store as received, becoming the last good cycle; else it enters as the last good cycle with the
failed mark and is counted, CHECK_STORM being posted at the 32nd in a row; a full store drops its oldest entry with a
slip, which marks the frame and posts SLIP, after a CHECK_STORM of the same cycle (assumption 32).  While the port is not
LOCKED no cycle enters the store, and while the part is stopped received cycles are discarded. -/
def Obligations.ReceiveArrivalCompletes : Prop :=
  (∀ (slots : Vector Word 33) (s : State), s.nh.lock ≠ .locked ∨ s.running = false →
    exec (.receiveStoreArrival slots) s = .next s) ∧
  ∀ (slots : Vector Word 33) (s : State), s.nh.lock = .locked → s.running = true →
    let good := s.nh.current.check = false ∨
      slotBits s.nh.current.narrow slots[32] = checkOf (voiceSamples s.nh.current.narrow slots)
    let full := 64 ≤ s.nh.rx.length
    let entry (e : RxCycle) := if full then s.nh.rx.tail ++ [e] else s.nh.rx ++ [e]
    let slips := if full then countUp s.nh.rxSlips else s.nh.rxSlips
    let slipNotice := if full then
      [(⟨.slip, .network, 1, BitVec.ofNat 32 slips, BitVec.ofNat 32 s.nh.txSlips⟩ : NoticeOut)] else []
    (good → exec (.receiveStoreArrival slots) s = .next { s with
      nh := { s.nh with rx := entry ⟨voiceSamples s.nh.current.narrow slots, false⟩, rxSlips := slips,
                        fault := s.nh.fault || decide full, lastGood := voiceSamples s.nh.current.narrow slots,
                        consecutive := 0, storm := false }
      io := handAll s.env slipNotice s.io }) ∧
    (¬ good →
      let failures := countUp s.nh.checkFailures
      let row := min 32 (s.nh.consecutive + 1)
      let storms := row = 32 ∧ s.nh.storm = false
      exec (.receiveStoreArrival slots) s = .next { s with
        nh := { s.nh with rx := entry ⟨s.nh.lastGood, true⟩, rxSlips := slips, fault := s.nh.fault || decide full,
                          checkFailures := failures, consecutive := row, storm := s.nh.storm || decide storms }
        io := handAll s.env ((if storms then
          [(⟨.checkStorm, .network, BitVec.ofNat 32 failures, 0, 0⟩ : NoticeOut)] else []) ++ slipNotice) s.io })

/-- The consecutive failure count and the storm flag (9.6): over a run of failed cycles the count rises to 32 and stops,
CHECK_STORM is posted once, at the 32nd, with the check-failure count; a good cycle, and going to LOCKED, clear both. -/
def Obligations.CheckStormOncePerRun : Prop :=
  (∀ (slots : Vector Word 33) (p : NetPort), p.current.check = true →
    slotBits p.current.narrow slots[32] ≠ checkOf (voiceSamples p.current.narrow slots) →
    checkCycle slots p = failCycle p) ∧
  (∀ (n : Nat) (p : NetPort), p.consecutive = 0 → p.storm = false → p.checkFailures + n ≤ 4294967295 →
    let r := (List.range n).foldl (fun x _ => let f := failCycle x.1; (f.1, x.2 ++ f.2.2)) (p, ([] : List NoticeOut))
    r.1.consecutive = min 32 n ∧ r.1.storm = decide (32 ≤ n) ∧
    r.2 = if 32 ≤ n then [⟨.checkStorm, .network, BitVec.ofNat 32 (p.checkFailures + 32), 0, 0⟩] else []) ∧
  (∀ (samples : Vector Sample 32) (p : NetPort),
    (passCycle samples p).1.consecutive = 0 ∧ (passCycle samples p).1.storm = false ∧ (passCycle samples p).2.2 = []) ∧
  ∀ (working : Bool) (p : NetPort),
    (goLocked working p).1.consecutive = 0 ∧ (goLocked working p).1.storm = false

/-- What the port sends passes the check and gives back the samples at a port of the same settings: the check of the sent
voice slots is the one in slot 32. -/
def Obligations.SentCycleIsReceived : Prop :=
  ∀ (n : NetSettings) (samples : Vector Sample 32), (∀ k : SlotNo, -32768 ≤ samples[k] ∧ samples[k] ≤ 32767) →
    voiceSamples n.narrow (sentSlots n samples) = samples ∧
    (n.check = true → slotBits n.narrow (sentSlots n samples)[32] = checkOf samples) ∧
    (n.check = false → (sentSlots n samples)[32] = 0)

/-- A Network Highway cycle start completes: LOCKED and working, the oldest entry is sent and leaves the store, or the
entry last sent goes out again with a slip; LOCKED and stopped, a cycle of zeros with its check; not LOCKED, nothing. -/
def Obligations.TransmitReadCompletes : Prop :=
  ∀ s : State,
    (s.nh.lock = .locked → s.running = true →
      (∀ x rest, s.nh.tx = x :: rest → exec .transmitStoreRead s =
        .next { s with nh := { s.nh with tx := rest, lastTx := x, line := sentSlots s.nh.current x } }) ∧
      (s.nh.tx = [] → exec .transmitStoreRead s = .next { s with
        nh := { s.nh with txSlips := countUp s.nh.txSlips, fault := true, line := sentSlots s.nh.current s.nh.lastTx }
        io := handAll s.env [⟨.slip, .network, 2, BitVec.ofNat 32 s.nh.rxSlips,
          BitVec.ofNat 32 (countUp s.nh.txSlips)⟩] s.io })) ∧
    (s.nh.lock = .locked → s.running = false → exec .transmitStoreRead s =
      .next { s with nh := { s.nh with line := sentSlots s.nh.current (Vector.replicate 32 0) } }) ∧
    (s.nh.lock ≠ .locked → exec .transmitStoreRead s =
      .next { s with nh := { s.nh with line := Vector.replicate 33 0 } })

/-- A cycle start seen in HUNT completes: the first sets the run to 1, one that comes L bit clocks after the one before
raises it, any other sets it to 1; at 4 the port goes to LOCKED with its counts and the last good cycle cleared.  While the
part works each store is set to 32 zero cycles and LOCKED is posted with the role; while the part is stopped both stores
are left empty and nothing is posted (assumption 22, DEDUCED from R163 and R172). -/
def Obligations.CycleStartCompletes : Prop :=
  ∀ (bits : Nat) (s : State), s.nh.lock = .hunt →
    let run := if s.nh.run ≠ 0 ∧ bits = s.nh.current.divider.len then s.nh.run + 1 else 1
    (run < 4 → exec (.cycleStart bits) s = .next { s with nh := { s.nh with run := run } }) ∧
    (4 ≤ run → s.running = true → exec (.cycleStart bits) s = .next { s with
      nh := { s.nh with run := run, lock := .locked, rx := List.replicate 32 ⟨Vector.replicate 32 0, false⟩,
                        tx := List.replicate 32 (Vector.replicate 32 0), lastGood := Vector.replicate 32 0,
                        miss := 0, consecutive := 0, storm := false }
      io := handAll s.env [⟨.locked, .network, if s.nh.current.lead then 1 else 0, 0, 0⟩] s.io }) ∧
    (4 ≤ run → s.running = false → exec (.cycleStart bits) s = .next { s with
      nh := { s.nh with run := run, lock := .locked, rx := [], tx := [], lastGood := Vector.replicate 32 0,
                        miss := 0, consecutive := 0, storm := false } })

/-- A sync test of a LOCKED port in FOLLOW completes: a good cycle sets the miss count to 0, a first miss is counted, and
a second takes the port to HUNT with both stores emptied and LOST posted.  A cycle is good, over its L
sync bits and the first bit of the next: for PULSE, when its last bit and no other is active; for SPAN, when the first
bit of the next is active after an inactive last bit, and no active bit after bit 0 follows an inactive one. -/
def Obligations.SyncTestCompletes : Prop :=
  (∀ (sync : List Bool) (s : State), s.nh.lock = .locked → s.nh.current.lead = false →
    (goodSync s.nh.current sync = true → exec (.syncTest sync) s = .next { s with nh := { s.nh with miss := 0 } }) ∧
    (goodSync s.nh.current sync = false → s.nh.miss = 0 →
      exec (.syncTest sync) s = .next { s with nh := { s.nh with miss := 1 } }) ∧
    (goodSync s.nh.current sync = false → 1 ≤ s.nh.miss →
      exec (.syncTest sync) s = .next { s with
        nh := { s.nh with lock := .hunt, run := 0, miss := s.nh.miss + 1, rx := [], tx := [],
                          line := Vector.replicate 33 0 }
        io := handAll s.env [⟨.lost, .network, 0, 0, 0⟩] s.io })) ∧
  ∀ (n : NetSettings) (sync : List Bool), 1 ≤ n.divider.len → sync.length = n.divider.len + 1 →
    (n.span = false → (goodSync n sync = true ↔
      ∀ i, i < n.divider.len → (sync[i]? = some true ↔ i = n.divider.len - 1))) ∧
    (n.span = true → (goodSync n sync = true ↔
      sync[n.divider.len]? = some true ∧ sync[n.divider.len - 1]? = some false ∧
      ∀ i, 0 < i → i < n.divider.len → sync[i]? = some true → sync[i - 1]? = some true))

/-! ## The frame boundary and the Host Tick Monitor -/

/-- A frame boundary completes: the frame number rises by 1 and wraps, the next frame starts at cycle 0 without samples,
the part runs as RUN says, STATION_BASE is sampled when it runs and the sampled area stands when it does not; the
registers and the queue stand.  An expiry still due is settled first (assumption 2; state u).  Then, in a frame of work,
each serving seat does its audio work on its inputs and the kept results as they stood, its prompt work and cell writes,
and the end of its cadence phase; each seat out of service sends and keeps silence; and each stream makes its fetch and
its write-backs.  The units use the bus in the command's order (assumptions 5, 11 and 40), the first finding it as it
stood; then come all write-backs, the stream reports, the part tick word, the held reads and the serving; the works'
SEAT notices are those of the serving seats' audio work.  Then RUN acts (0→1: histories, P, M, double-talk counts, voice
flags, kept results, buses, prefetch buffers; 1→0: owed final writes dropped, stores emptied, debounce counts 0), and a
due restart is made (assumption 22).  When the part runs on, the settings and the service of the last scan take over: a
seat coming into service has its initial values (its cadence position stands, assumption 33).  The monitor reads the
tick word, and one that ends stand-alone hands RESUMED with it and the frames spent there.  All that gives v; then,
unless the monitor expired, the scans, which leave what governs the frame alone. -/
def Obligations.FrameBoundaryCompletes : Prop :=
  ∀ (turns : List BusTurn) (order : List Worker) (s : State), s.cycle = 80 →
    ∃ t, exec (.frameBoundary turns order) s = .next t ∧ t.pending = s.pending ∧ t.regs = s.regs ∧
      t.frame = s.frame + 1 ∧ t.cycle = 0 ∧ t.running = s.regs.run ∧
      t.area = (if s.regs.run = true then s.regs.stationBase else s.area) ∧
      t.sh.mics = [] ∧ t.nh.ys = [] ∧ t.nh.fault = false ∧ t.io.turns = [] ∧
      let loaded : State := { s with io := { s.io with turns := turns } }
      let u := if s.tick.expired = true then loaded.expireAndScan else loaded
      let works := s.running = true
      let goes := s.regs.run = true
      let zeros : List Sample := List.replicate 80 0
      let history : List Sample := List.replicate 2048 0
      let quiet (m : Mixer) : Mixer :=
        { m with ear := zeros, line := zeros, lineSlot := none, onAir := false, whisper := false }
      ∃ v : State, v = { u with
          frame := s.frame + 1, cycle := 0, running := s.regs.run
          area := if goes then s.regs.stationBase else s.area
          header := if goes then { u.header with serving := u.header.seats } else u.header
          io := v.io, tick := v.tick, sh := v.sh, nh := v.nh, seats := v.seats, streams := v.streams } ∧
        t = (if goes ∧ v.tick.expired = false then v.scans else v).drained ∧
        (let ws := workersOf order
          let reported := (ws.foldl unitReport (ws.foldl unitBacks (ws.foldl (unitWork u) u))).io
          let ticked := (writeRecord u.env .header [(s.area.toNat + 0x28, s.frame)] reported).2
          let served := if works then serveNotices u.env (heldReads u.env ticked) else u.io
          let read := readReporting v.env .header 0 (s.regs.stationBase.toNat + 0x24) served
          let counted := { u.tick with aloneFrames :=
            if works ∧ u.tick.standalone = true then countUp u.tick.aloneFrames else u.tick.aloneFrames }
          (works → reported.seatClass = (handAll u.env (ws.flatMap fun
            | .seat k => if k.val < u.header.serving then
                (seatAudio k (fun j => u.seats[j].kept) (seatInputs u k) u.seats[k]).notices else []
            | .stream _ => []) u.io).seatClass) ∧
          (turns = [] → read.1 = some (readMemWord (s.regs.stationBase.toNat + 0x24) served.mem)) ∧
          v.tick = (if goes then counted.observe read.1 else counted) ∧
          v.io = if ¬ goes then served
            else if u.tick.standalone = true ∧ v.tick.standalone = false then
              hand v.env .resumed .tickMonitor (read.1.getD 0) (BitVec.ofNat 32 counted.aloneFrames) 0 read.2
            else read.2) ∧
        (let p : SeatPort := if u.sh.restart = true then
            { u.sh with running := true, current := u.sh.adopted, restart := false, mics := [],
                        slots := Vector.replicate 32 ⟨⟨false, 0⟩, ⟨false, 0⟩, ⟨false, 0⟩⟩ }
          else { u.sh with mics := [] }
        v.sh = { p with slots := v.sh.slots } ∧ ∀ k : SeatNo, v.sh.slots[k] = if works ∧ ¬ goes then
          ⟨⟨p.slots[k].present.settled.value, 0⟩, ⟨p.slots[k].muteKey.settled.value, 0⟩,
            ⟨p.slots[k].talkKey.settled.value, 0⟩⟩ else p.slots[k]) ∧
        (let cycle : Vector Sample 32 := Vector.replicate 32 0
        let p : NetPort := if u.nh.restart = true then
            { u.nh with
              current := u.nh.adopted, restart := false
              lock := if u.nh.adopted.enable = true ∧ u.nh.adopted.lead = false then .hunt else .down
              leadStart := u.nh.adopted.enable && u.nh.adopted.lead
              run := 0, miss := 0, rx := [], tx := [], lastGood := cycle, checkFailures := 0, consecutive := 0
              storm := false, rxSlips := 0, txSlips := 0, line := Vector.replicate 33 0, ys := [], fault := false }
          else { u.nh with ys := [], fault := false }
        v.nh = if works ∧ ¬ goes then { p with rx := [], tx := [] }
          else if ¬ works ∧ goes ∧ p.lock = .locked then
            { p with rx := List.replicate 32 ⟨cycle, false⟩, tx := List.replicate 32 cycle }
          else p) ∧
        (∀ k : SeatNo,
          let x := u.seats[k]
          let serves := k.val < u.header.serving
          let enters := u.header.serving ≤ k.val ∧ k.val < u.header.seats
          let audio := seatAudio k (fun j => u.seats[j].kept) (seatInputs u k) x
          ∃ p : PromptUnit,
            (works → ∃ io, (order.head? = some (.seat k) → io = u.io) ∧ p = if serves then
                (endCells u.env k (promptFrame u.env k audio.plays x.prompt (handAll u.env audio.notices io))).1
              else (retryCells u.env k x.prompt io).1) ∧
            (¬ works → goes → p = { x.prompt with
              buffer := zeros, filled := 0, last := false
              stage := if x.prompt.stage = .fresh then .fresh else .again }) ∧
            (¬ works → ¬ goes → p = x.prompt) ∧
            let y : Seat :=
              if works ∧ serves then
                { audio.seat with prompt := p, cadence := endPhase x.governing.cadence audio.seat.cadence }
              else if works then
                { x with prompt := p, kept := ⟨zeros, zeros, false, false⟩, mixer := quiet x.mixer
                         cadence := settleUser x.governing.cadence false false x.cadence }
              else if goes then
                { x with prompt := p, kept := ⟨zeros, zeros, false, false⟩, mixer := quiet x.mixer
                         canceller := { x.canceller with history := history, power := 0, level := 0, talk := 0 }
                         suppressor := { x.suppressor with voice := false, hangover := 0 } }
              else x
            let z : Seat :=
              { y with governing := x.adopted, keyMute := y.keyMute && !x.due.clearKeyMute
                       canceller := promoteCanceller x.blocks.length x.due.zeroTaps y.canceller
                       suppressor := { y.suppressor with initDue := x.due.initSuppressor }
                       cadence := { y.cadence with due := x.due.reminder, newPeriod := x.due.newPeriod }
                       due := ⟨false, false, false, none, false⟩ }
            v.seats[k] =
              if ¬ goes then y
              else if enters then
                { z with status := ⟨false, false, false⟩, suppressor := ⟨1024, 16384, 0, false, 0, false⟩
                         arbiter := ⟨16384, 20, false⟩, kept := ⟨zeros, zeros, false, false⟩
                         cadence := ⟨.stopped, 0, z.cadence.position, false, none, false⟩
                         mixer := ⟨zeros, zeros, none, false, false, 0, 0⟩
                         canceller := { z.canceller with
                           history := history, power := 0, level := 0, talk := 0, convergenceRun := 0, lossRun := 0
                           ex := 0, ey := 0, ee := 0 } }
              else z) ∧
        (∀ j : StreamNo,
          let st := u.streams[j]
          (works → ∃ io io' : Io, (order.head? = some (.stream j) → io = u.io) ∧
            let f := (writeBacks u.env j (fetchStream u.env j st io).1 io').1
            v.streams[j] = if goes then f else { f with owedA := none, owedB := none }) ∧
          (¬ works → v.streams[j] = if goes then { st with buffer := zeros, playing := false } else st)) ∧
        (goes → (∀ k : SeatNo, t.seats[k] = { v.seats[k] with
            edition := t.seats[k].edition, adopted := t.seats[k].adopted, due := t.seats[k].due
            blocks := t.seats[k].blocks, waiting := t.seats[k].waiting
            prompt := { v.seats[k].prompt with
              order := t.seats[k].prompt.order, stale := t.seats[k].prompt.stale } }) ∧
          (∀ j : StreamNo, t.streams[j].buffer = v.streams[j].buffer ∧ t.streams[j].playing = v.streams[j].playing ∧
            (t.streams[j].edition = v.streams[j].edition → t.streams[j] = { v.streams[j] with
              listeners := t.streams[j].listeners, state := t.streams[j].state })) ∧
          t.header.serving = v.header.serving ∧
          t.sh = { v.sh with adopted := t.sh.adopted, restart := t.sh.restart } ∧
          t.nh = { v.nh with adopted := t.nh.adopted, restart := t.nh.restart })

/-- A boundary of a stopped part with RUN 0 does nothing but open the next frame of the timeline.  That a restart of a
highway port that is due is made there is assumption 22 (DEDUCED from R156, R158 and R162), and that the host's own writes
land in the step is assumption 5 (a DESIGN CHOICE of the interface). -/
def Obligations.StoppedBoundaryIsSilent : Prop :=
  ∀ (turns : List BusTurn) (order : List Worker) (s : State), s.cycle = 80 → s.running = false →
    s.regs.run = false → s.tick.expired = false →
    exec (.frameBoundary turns order) s = .next { s with
      frame := s.frame + 1, cycle := 0, sh := s.sh.opened, nh := s.nh.opened,
      io := { s.io with turns := [], mem := turns.foldl (fun m t => hostWrites t.writes m) s.io.mem } }

/-- What a frame of work leaves in host memory, when the window takes its writes and no access meets a bus error or a host
write (8.6, 5.7, 10.8).  The part tick word holds the frame's number.  The report of each serving seat holds the words of
`seatReport` for the seat after its work (its audio work, its prompt work and cell writes), with the phase and the user that
the cadence unit had in the frame; the report of a seat out of service stands.  The report of each stream holds the words of
`streamReport` for the stream after its fetch and its write-backs; but from the refusal of the first header after a reset
until a header is adopted every stream report stands (assumption 34, DEDUCED).  The units take the bus in the order that the
command carries (assumptions 5 and 11), the first of them finding it as it stood, and an expiry that is still due is settled
first (assumption 2; state u). -/
def Obligations.PartTickWordWritten : Prop :=
  ∀ (order : List Worker) (s : State), s.cycle = 80 → s.running = true → memoryWf s.io.mem = true →
    s.regs.windowBase.toNat ≤ s.area.toNat → s.area.toNat + 16384 ≤ s.regs.windowLimit.toNat →
    ∃ t, exec (.frameBoundary [] order) s = .next t ∧ readMemWord (s.area.toNat + 0x28) t.io.mem = s.frame ∧
      let loaded : State := { s with io := { s.io with turns := [] } }
      let u := if s.tick.expired = true then loaded.expireAndScan else loaded
      let silent := u.header.layoutBad = true ∧ u.header.adopted = false
      (∀ k : SeatNo,
        let report := s.area.toNat + 0x2000 + 128 * k.val
        let x := u.seats[k]
        let audio := seatAudio k (fun j => u.seats[j].kept) (seatInputs u k) x
        (k.val < u.header.serving → ∃ io : Io, (order.head? = some (.seat k) → io = u.io) ∧
          let p := (endCells u.env k (promptFrame u.env k audio.plays x.prompt (handAll u.env audio.notices io))).1
          ∀ i, i < 32 → readMemWord (report + 4 * i) t.io.mem =
            (seatReport s.frame { audio.seat with prompt := p } audio.seat.cadence.phase
              audio.seat.cadence.fallback).getD i 0) ∧
        (u.header.serving ≤ k.val → ∀ a, report ≤ a → a < report + 128 →
          readByte a t.io.mem = readByte a s.io.mem)) ∧
      ∀ j : StreamNo,
        let report := s.area.toNat + 0x0C00 + 32 * j.val
        (¬ silent → ∃ io io' : Io, (order.head? = some (.stream j) → io = u.io) ∧
          let st := (writeBacks u.env j (fetchStream u.env j u.streams[j] io).1 io').1
          ∀ i, i < 8 → readMemWord (report + 4 * i) t.io.mem = (streamReport s.frame st).getD i 0) ∧
        (silent → ∀ a, report ≤ a → a < report + 32 → readByte a t.io.mem = readByte a s.io.mem)

/-- HOST_TICK_EXPIRY completes: under the command's bus turns it is the expiry of `State.expire`, whose outcome
`ExpiryOutcome` gives, and then the scans of its boundary, the host's remaining writes landing at the end (assumption
5).  In stand-alone operation, as it stood or as the expiry has entered it, those scans are the retries of waiting seats
alone; otherwise the adoption scan is made and then the cell scan of the seats in service.  The expiry is no longer due,
STANDALONE is set when it was set or a TICK_LATE is still in the SUPERVISION class, and the queue, the registers and the
timeline stand.  That an expiry stands as due after the boundary and is taken in a step of its own, with the scans, is
the model's choice (assumption 2). -/
def Obligations.HostTickExpiryCompletes : Prop :=
  ∀ (turns : List BusTurn) (s : State), s.tick.expired = true →
    ∃ t, exec (.hostTickExpiry turns) s = .next t ∧
      (let x := { s with io := { s.io with turns := turns } }.expire
      let seats (y : State) := (List.finRange 32).filter fun k => decide (k.val < y.header.serving ∧ k.val < y.header.seats)
      let scanned := if s.tick.standalone = true ∨ tickLateThere s.io = true then (seats x).foldl State.retryTail x
        else (seats x.adoptionScan).foldl scanSeatCells x.adoptionScan
      t = x.scans.drained ∧ x.scans = scanned ∧
      t = { scanned with io := { scanned.io with
        turns := [], mem := scanned.io.turns.foldl (fun m b => hostWrites b.writes m) scanned.io.mem } }) ∧
      t.pending = s.pending ∧ t.regs = s.regs ∧ t.frame = s.frame ∧
      t.cycle = s.cycle ∧ t.running = s.running ∧ t.area = s.area ∧ t.nh.lock = s.nh.lock ∧
      t.tick.expired = false ∧ t.tick.standalone = (s.tick.standalone || tickLateThere s.io) ∧ t.io.turns = []

/-- An expiry (11.6): in stand-alone operation it does nothing; with no TICK_LATE in the SUPERVISION class it hands
TICK_LATE with T; else the part enters stand-alone operation with a stand-alone count of 0.  It hands STANDALONE_ENTERED with
the last host tick word seen, and then for each target in seat-number order a SUPERVISOR_DETACHED of cause STANDALONE (2)
with the target for each entry of its list, first entry then second.  Every attachment list is emptied, every attached
supervisor stays in SUPERVISE with no target, and every cell of every play order is marked ABANDONED, but that a mark given
before stands.  Nothing else changes: the settings, what governs the frame, and the rest of the part.  What the last seen
word is while it is unset is a free value (assumption 9), and the statement holds for every value of it. -/
def Obligations.ExpiryOutcome : Prop :=
  ∀ s : State,
    (s.tick.standalone = true → s.expire = { s with tick := { s.tick with expired := false } }) ∧
    (s.tick.standalone = false → tickLateThere s.io = false →
      s.expire = { s with
        tick := { s.tick with expired := false }
        io := hand s.env .tickLate .tickMonitor (BitVec.ofNat 32 s.tick.period) s.tick.lastWord 0 s.io }) ∧
    (s.tick.standalone = false → tickLateThere s.io = true →
      s.expire = { s with
        tick := { s.tick with expired := false, standalone := true, aloneFrames := 0 }
        seats := s.expire.seats
        io := handAll s.env ((⟨.standaloneEntered, .tickMonitor, s.tick.lastWord, 0, 0⟩ : NoticeOut) ::
          (List.finRange 32).flatMap fun k => s.seats[k].adopted.supervisors.map fun a =>
            ⟨.supervisorDetached, .seat a.seat, BitVec.ofNat 32 k.val, 2, 0⟩) s.io } ∧
      ∀ k : SeatNo,
        let gone := ∃ t : SeatNo, ∃ a ∈ s.seats[t].adopted.supervisors, a.seat = k
        s.expire.seats[k] = { s.seats[k] with
          adopted := { s.seats[k].adopted with supervisors := [], attachedTo := s.expire.seats[k].adopted.attachedTo }
          prompt := { s.seats[k].prompt with order := s.seats[k].prompt.order.map fun q =>
            { q with mark := some (q.mark.getD .abandoned) } } } ∧
        (gone → s.expire.seats[k].adopted.attachedTo = none) ∧
        (¬ gone → s.expire.seats[k].adopted.attachedTo = s.seats[k].adopted.attachedTo) ∧
        (s.attachmentsOk → s.expire.seats[k].adopted.attachedTo = none))

/-- T boundaries in a row at which the host tick word is unchanged make the monitor expire at the last of them, and none
before; a changed word sets c to 0. -/
def Obligations.MonitorExpiresAfterT : Prop :=
  (∀ (t : TickMonitor) (w : Word) (n : Nat), t.count = 0 → t.expired = false → t.last = some w → 1 ≤ n →
    n ≤ t.period →
    let r := (List.replicate n (some w)).foldl TickMonitor.observe t
    r.expired = decide (n = t.period) ∧ r.count = (if n = t.period then 0 else n) ∧ r.standalone = t.standalone) ∧
  ∀ (t : TickMonitor) (w : Word), t.period ≠ 0 → t.last ≠ some w →
    t.observe (some w) = { t with last := some w, count := 0, standalone := false }

/-! ## Laws that every step keeps -/

/-- Every step keeps host memory in the model's canonical form: addresses strictly rising, no entry equal to what an
unlisted byte reads as.  The form is the model's representation (assumption 4), and no rule of the spec. -/
def Obligations.MemoryFormKept : Prop :=
  ∀ s t : State, memoryWf s.io.mem = true → step s = .next t → memoryWf t.io.mem = true

/-- The address registers and the sampled station area keep reading 0 in the bits that are ignored. -/
def Obligations.AlignmentKept : Prop :=
  ∀ s t : State, s.regs.aligned → s.areaAligned → step s = .next t → t.regs.aligned ∧ t.areaAligned

/-- Every pending list keeps to its class and holds no event twice. -/
def Obligations.NoticeListsKept : Prop :=
  ∀ s t : State, s.io.noticesOk → step s = .next t → t.io.noticesOk

/-- The Tail Pool (2.8): a grant takes blocks from the head of the free list to the end of a seat's list, a release takes
them from the end of a seat's list to their places in the free list, and every step keeps every block once in the free
list or in one seat's list.  A request is granted the smaller of tail_request and the free blocks if that reaches the
floor; else the seat waits, and POOL_SHORT is posted but for a retry.  Every step keeps blocks and the waiting condition to
seats in TALK or HOLD with ec_enable 1, with no blocks for a waiting seat and no more than the request for any. -/
def Obligations.TailPoolLaw : Prop :=
  (∀ (s : State) (k : SeatNo) (n : Nat), (s.grantTail k n).seats[k].blocks = s.seats[k].blocks ++ s.pool.take n ∧
    (s.grantTail k n).pool = s.pool.drop n ∧
    ∀ j : SeatNo, j ≠ k → (s.grantTail k n).seats[j].blocks = s.seats[j].blocks) ∧
  (∀ (s : State) (k : SeatNo) (keep : Nat), s.poolOk →
    (s.releaseTail k keep).seats[k].blocks = s.seats[k].blocks.take keep ∧
    (s.releaseTail k keep).pool.Perm (s.pool ++ s.seats[k].blocks.drop keep) ∧
    (s.releaseTail k keep).pool.Pairwise (· < ·) ∧
    ∀ j : SeatNo, j ≠ k → (s.releaseTail k keep).seats[j].blocks = s.seats[j].blocks) ∧
  (∀ s t : State, s.poolOk → step s = .next t → t.poolOk) ∧
  (∀ s : State, s.poolOk → s.pool.length + s.heldBlocks.length = 256) ∧
  State.reset.poolOk ∧ State.reset.pool = List.range 256 ∧ (∀ k : SeatNo, State.reset.seats[k].blocks = []) ∧
  (∀ (s : State) (k : SeatNo) (loud : Bool),
    let e := s.seats[k].adopted.echo
    let n := min e.tailRequest s.pool.length
    (e.tailFloor ≤ n → s.requestTail k loud = { s with
      pool := s.pool.drop n
      seats := s.seats.set k { s.seats[k] with blocks := s.seats[k].blocks ++ s.pool.take n, waiting := false } }) ∧
    (n < e.tailFloor → s.requestTail k loud = { s with
      seats := s.seats.set k { s.seats[k] with waiting := true }
      io := if loud = true then hand s.env .poolShort (.seat k) (BitVec.ofNat 32 e.tailRequest)
        (BitVec.ofNat 32 e.tailFloor) (BitVec.ofNat 32 s.pool.length) s.io else s.io })) ∧
  (∀ s t : State, s.tailOk → step s = .next t → t.tailOk) ∧ State.reset.tailOk

/-- The law of the Network Highway slots (1.3) is kept by every step, and holds at reset.  A record that is adopted gives
its seat the slot that its new settings hold and no other, frees the seat's other entry, and leaves every other entry. -/
def Obligations.SlotLawKept : Prop :=
  (∀ s t : State, s.slotsOk → step s = .next t → t.slotsOk) ∧ State.reset.slotsOk ∧
  ∀ (s : State) (k : SeatNo) (edition : Word) (r : SeatRecord), s.slotsOk → checkRecord s k r = none →
    let t := s.takeSeat k edition r
    let g := t.seats[k].adopted.routing
    ∀ n : SlotNo, t.slotMap[n] =
      if g.mode.holdsSlot = true ∧ g.nhSlot = some n.val then some k
      else if s.slotMap[n] = some k then none else s.slotMap[n]

/-- Neither elastic store ever holds more than 64 cycles, both are empty while the port is not LOCKED, and the
consecutive failure count stays in 0..32. -/
def Obligations.StoresBounded : Prop :=
  ∀ s t : State, s.nh.bounded → s.nh.storesOk → step s = .next t → t.nh.bounded ∧ t.nh.storesOk

/-- Every adopted and governing setting stays in its range, and the applied gain and the duck value in 0..16384. -/
def Obligations.SettingsKeptInRange : Prop :=
  ∀ s t : State, s.settingsOk → step s = .next t → t.settingsOk

/-- The listener counts and the enabling of streams (5.1, 5.3).  Every step keeps each stream's count at the number of seats in
HOLD that name it.  The first listener of a WAITING stream makes it RUNNING, the last one leaving a RUNNING or STARVED stream
makes it WAITING, and nothing else of the stream changes.  A record that is adopted makes its seat join and leave as its
settings before and after it say, and touches no stream otherwise.  A stream adoption takes the edition, the format and
enable.  Enabled from 0, the stream has no position, no bad-seen mark and a frames-starved count of 0, and is RUNNING with a
listener and WAITING without; disabled, it is DISABLED with no position and owes no write; with the same enable nothing else
changes, so its position stands over a change of format.  A stream entry that is changed is taken from its two words when its
edition reads the same again, and left when it does not; that enable is bit 0 of its word and not any nonzero word is assumption
18 (DEDUCED). -/
def Obligations.ListenerCountsKept : Prop :=
  (∀ s t : State, s.listenersOk → step s = .next t → t.listenersOk) ∧
  (∀ (s : State) (k : SeatNo) (edition : Word) (r : SeatRecord) (j : StreamNo), checkRecord s k r = none →
    let t := s.takeSeat k edition r
    let was := s.seats[k].adopted.listensTo j
    let is := t.seats[k].adopted.listensTo j
    t.streams[j] =
      if was = is then s.streams[j] else if is = true then joinStream s.streams[j] else leaveStream s.streams[j]) ∧
  (∀ st : Stream,
    joinStream st = { st with listeners := st.listeners + 1, state := (joinStream st).state } ∧
    (st.state = .waiting → st.listeners = 0 → (joinStream st).state = .running) ∧
    (st.state ≠ .waiting ∨ st.listeners ≠ 0 → (joinStream st).state = st.state) ∧
    leaveStream st = { st with listeners := st.listeners - 1, state := (leaveStream st).state } ∧
    (st.state = .running ∨ st.state = .starved → st.listeners = 1 → (leaveStream st).state = .waiting) ∧
    (st.state = .disabled ∨ st.state = .waiting ∨ 2 ≤ st.listeners → (leaveStream st).state = st.state) ∧
    (st.state = .running → st.listeners = 1 → joinStream (leaveStream st) = st)) ∧
  (∀ (edition : Word) (narrow : Bool) (st : Stream),
    adoptStream edition st.enable narrow st = { st with edition := some edition, narrow := narrow } ∧
    (st.enable = false → adoptStream edition true narrow st = { st with
      edition := some edition, narrow := narrow, enable := true, position := none, badA := false, badB := false
      framesStarved := 0, state := if st.listeners = 0 then .waiting else .running }) ∧
    (st.enable = true → adoptStream edition false narrow st = { st with
      edition := some edition, narrow := narrow, enable := false, position := none, owedA := none, owedB := none
      state := .disabled })) ∧
  ∀ (s : State) (j : StreamNo) (edition : Word), s.io.turns = [] →
    let word (a : Nat) := readMemWord (s.area.toNat + 0x400 + 32 * j.val + a) s.io.mem
    streamPlace s (j, none) = s ∧
    (word 0 ≠ edition → streamPlace s (j, some edition) = s) ∧
    (word 0 = edition → streamPlace s (j, some edition) = { s with
      streams := s.streams.set j (adoptStream edition ((word 4).getLsbD 0) (decide (word 8 = 1)) s.streams[j]) })

/-- The law of supervision (4.1) is kept by every step, and holds at reset.  A record adopted for SUPERVISE keeps the
seat's place on the list of the target it stands on, with the new kind and push_to_talk, or takes the seat off its old
list and puts it at the end of the new one; any other mode takes it off; and a seat that enters IDLE from a call empties
its own list. -/
def Obligations.SupervisionLawKept : Prop :=
  (∀ s t : State, s.attachmentsOk → step s = .next t → t.attachmentsOk) ∧ State.reset.attachmentsOk ∧
  ∀ (s : State) (k : SeatNo) (edition : Word) (r : SeatRecord), s.attachmentsOk → checkRecord s k r = none →
    let t := s.takeSeat k edition r
    let old := s.seats[k].adopted
    (r.namesRouting = false → ∀ j : SeatNo, t.seats[j].adopted.attachedTo = s.seats[j].adopted.attachedTo ∧
      t.seats[j].adopted.supervisors = s.seats[j].adopted.supervisors) ∧
    (r.namesRouting = true → decodeMode r.routing.mode = some .supervise →
      ∃ (u : SeatNo) (kind : Kind), r.routing.target = u.val ∧ decodeKind r.routing.kind = some kind ∧
        t.seats[k].adopted.attachedTo = some u ∧
        (old.attachedTo = some u → t.seats[u].adopted.supervisors =
          s.seats[u].adopted.supervisors.map fun a =>
            if a.seat = k then ⟨k, kind, r.routing.pushToTalk⟩ else a) ∧
        (old.attachedTo ≠ some u → t.seats[u].adopted.supervisors =
          s.seats[u].adopted.supervisors ++ [⟨k, kind, r.routing.pushToTalk⟩]) ∧
        ∀ o : SeatNo, old.attachedTo = some o → o ≠ u →
          t.seats[o].adopted.supervisors = s.seats[o].adopted.supervisors.filter fun a => decide (a.seat ≠ k)) ∧
    (r.namesRouting = true → decodeMode r.routing.mode ≠ some .supervise →
      t.seats[k].adopted.attachedTo = none ∧
      ∀ o : SeatNo, old.attachedTo = some o →
        t.seats[o].adopted.supervisors = s.seats[o].adopted.supervisors.filter fun a => decide (a.seat ≠ k)) ∧
    (r.namesRouting = true → decodeMode r.routing.mode = some .idle → old.routing.mode.holdsSlot = true →
      t.seats[k].adopted.supervisors = [] ∧
      ∀ a ∈ old.supervisors, t.seats[a.seat].adopted.attachedTo = none ∧
        t.seats[a.seat].adopted.routing = s.seats[a.seat].adopted.routing)

/-- A play order never holds a cell twice or more than four cells, and only its first cell has been written PLAYING or
PAUSED. -/
def Obligations.PlayOrdersKept : Prop :=
  (∀ s t : State, s.ordersOk → step s = .next t → t.ordersOk) ∧
  ∀ p : PromptUnit, p.orderOk → p.order.length ≤ 4

/-- Every step keeps the timeline within a frame in shape: at most 80 cycles, one row of samples of each highway for
each of them, and no debounce count above 16.  That a count may stand at 16 is the model's choice (assumption 3; R159
has 0..15).  Every step keeps the frames of samples whole: each seat's kept CUST and sent voice, its EAR and LINE, its
prompt buffer, and each stream's buffer hold 80 samples. -/
def Obligations.TimelineKept : Prop :=
  (∀ s t : State, s.timelineOk → step s = .next t → t.timelineOk) ∧
  ∀ s t : State, s.framesOk → step s = .next t → t.framesOk

/-- The reset state has the values of the reset tables (Tables 1-12, 2-4, 3-5, 4-2, 5-6, 6-3, 7-5, 8-6 and 9-5) and of
R175, R194 and R199, and the laws above hold of it.  What it says of fields that no reset table has (the sampled station
area, the entries last delivered and last sent, the kept tag, host memory) is the model's choice (assumptions 4 and 8). -/
def Obligations.ResetStateIsRight : Prop :=
  let routing : Routing :=
    { mode := .idle, nhSlot := none, holdStream := 255, target := none, kind := 0, pushToTalk := false,
      hostMute := false, keyMuteAllowed := false }
  let echo : Echo :=
    { enable := false, tailRequest := 1, tailFloor := 1, bulkDelay := 0, stepShift := 1, talkRatioShift := 1,
      talkHangover := 0, referenceFloor := 0, hostFreeze := false, residualGain := 16384 }
  let noise : Noise :=
    { enable := false, gainTable := Vector.replicate 8 16384, floorRiseShift := 4, releaseStep := 1, vadBand := 1,
      vadHangover := 0 }
  let levels : Levels :=
    { mic := 16384, cust := 16384, side := 0, whisper := 16384, hold := 16384, listen := 16384, barge := 16384,
      duck := 16384 }
  let cadence : Cadence :=
    { reminderEnable := false, halfPeriod := 4, amplitude := 0, onFrames := 1, offFrames := 0, single := false }
  let settings : Settings := ⟨routing, echo, noise, levels, cadence, none, []⟩
  let zeros : List Sample := List.replicate 80 0
  let cycle : Vector Sample 32 := Vector.replicate 32 0
  (∀ k : SeatNo,
    let x := State.reset.seats[k]
    x.adopted = settings ∧ x.governing = settings ∧ x.edition = none ∧ x.keyMute = false ∧
    x.status = ⟨false, false, false⟩ ∧ x.blocks = [] ∧ x.waiting = false ∧
    x.canceller.state = .off ∧ x.canceller.taps = [] ∧ x.canceller.history = List.replicate 2048 0 ∧
    x.canceller.power = 0 ∧ x.canceller.level = 0 ∧ x.canceller.talk = 0 ∧ x.canceller.convergenceRun = 0 ∧
    x.canceller.lossRun = 0 ∧ x.canceller.ex = 0 ∧ x.canceller.ey = 0 ∧ x.canceller.ee = 0 ∧
    x.suppressor = ⟨1024, 16384, 0, false, 0, false⟩ ∧ x.arbiter = ⟨16384, 20, false⟩ ∧
    x.cadence = ⟨.stopped, 0, 0, false, none, false⟩ ∧ x.kept = ⟨zeros, zeros, false, false⟩ ∧
    x.prompt.order = [] ∧ x.prompt.stage = .fresh ∧ x.prompt.clip = none ∧ x.prompt.buffer = zeros ∧
    x.prompt.owed = [] ∧ x.prompt.stale = [] ∧ x.mixer = ⟨zeros, zeros, none, false, false, 0, 0⟩) ∧
  (∀ j : StreamNo, State.reset.streams[j] =
    { edition := none, enable := false, narrow := false, state := .disabled, position := none, listeners := 0,
      framesStarved := 0, badA := false, badB := false, owedA := none, owedB := none, buffer := zeros,
      playing := false, backs := [] }) ∧
  State.reset.pool = List.range 256 ∧ (∀ n : SlotNo, State.reset.slotMap[n] = none) ∧
  State.reset.regs = ⟨false, 0, 0, 0, 0⟩ ∧ State.reset.running = false ∧ State.reset.io.windowFault = false ∧
  State.reset.header = ⟨none, false, false, 0, 0⟩ ∧ State.reset.tick = ⟨0, none, 0, false, 0, false⟩ ∧
  (∀ x : NoticeClass, State.reset.io.cls x = ⟨[], none⟩) ∧
  State.reset.sh.running = false ∧ State.reset.sh.adopted = ⟨1, true, 1024⟩ ∧
  State.reset.sh.current = ⟨1, true, 1024⟩ ∧
  (∀ k : SeatNo, State.reset.sh.slots[k] = ⟨⟨false, 0⟩, ⟨false, 0⟩, ⟨false, 0⟩⟩) ∧
  State.reset.nh =
    { adopted := ⟨false, false, false, false, false, ⟨1, false, 1056⟩⟩
      current := ⟨false, false, false, false, false, ⟨1, false, 1056⟩⟩, restart := false, leadStart := false
      lock := .down, run := 0, miss := 0, rx := [], tx := [], lastRx := ⟨cycle, false⟩, lastTx := cycle,
      lastGood := cycle, checkFailures := 0, consecutive := 0, storm := false, rxSlips := 0, txSlips := 0,
      fault := false, ys := [], line := Vector.replicate 33 0 } ∧
  State.reset.cycle = 0 ∧ State.reset.frame = 0 ∧ State.reset.pending = [] ∧
  memoryWf State.reset.io.mem = true ∧ State.reset.regs.aligned ∧ State.reset.areaAligned ∧ State.reset.io.noticesOk ∧
  State.reset.nh.bounded ∧ State.reset.nh.storesOk ∧ State.reset.settingsOk ∧ State.reset.listenersOk ∧
  State.reset.ordersOk ∧ State.reset.timelineOk ∧ State.reset.framesOk

/-- The write window (10.9): whatever command is taken, a byte of host memory outside the window changes only by a write
of the host itself to that byte.  A record write checks each word on its own.  A word inside the window takes one bus
turn, and it is put in memory unless the turn ends in a bus error, which hands WRITE_FAILED with the word's address; a
word that is refused takes none, and one WINDOW_REFUSED with the address of the first of them is handed for the record,
after every WRITE_FAILED (that order is assumption 38).  The record is made when every word is. -/
def Obligations.NothingWrittenOutsideWindow : Prop :=
  (∀ (i : Instr) (s t : State) (a : Nat), memoryWf s.io.mem = true → noHostWriteAt a s.io.turns →
    (∀ turns order, i = .frameBoundary turns order → noHostWriteAt a turns) →
    (∀ turns, i = .hostTickExpiry turns → noHostWriteAt a turns) →
    outsideWindow s.regs a → exec i s = .next t → readByte a t.io.mem = readByte a s.io.mem) ∧
  ∀ (e : Env) (src : Source) (ws : List (Nat × Word)) (io : Io),
    let inside := ws.filter fun x => decide (e.lo ≤ x.1 ∧ x.1 + 4 ≤ e.hi)
    let refused := ws.filter fun x => decide (x.1 < e.lo ∨ e.hi < x.1 + 4)
    let turned := inside.zip (io.turns.map BusTurn.error ++ List.replicate inside.length false)
    let failed := (turned.filter fun x => x.2).map fun x => x.1.1
    let made := (turned.filter fun x => !x.2).map fun x => x.1
    let notices : List NoticeOut :=
      (failed.map fun a => ⟨.writeFailed, src, BitVec.ofNat 32 a, 0, 0⟩) ++
        (refused.head?.map fun x => ⟨.windowRefused, src, BitVec.ofNat 32 x.1, 0, 0⟩).toList
    let r := writeRecord e src ws io
    (r.1 = true ↔ refused = [] ∧ failed = []) ∧
    r.2 = { handAll e notices io with turns := io.turns.drop inside.length, mem := r.2.mem } ∧
    ((∀ t ∈ io.turns, t.writes = []) → r.2.mem = made.foldl (fun m x => writeMemWord x.1 x.2 m) io.mem)

/-! ## The suppressor, the arbiter and the mixer -/

/-- The band of a frame (3.2), from the frame's energy E and the floor F as it stood. -/
def Obligations.BandOfFrame : Prop :=
  ∀ (n : Noise) (x : Suppressor) (xs : List Sample),
    let E := meanSquare xs
    let F := x.initialised.floor
    let b := (presentFrame n x xs).1.band
    (E < 2 * F → b = 0) ∧
    (2 * F ≤ E → 1 ≤ b ∧ b ≤ 7 ∧ F * 2 ^ b ≤ E ∧ ∀ k, b < k → k ≤ 7 → E < F * 2 ^ k)

/-- The floor update (3.4): the two formulas, taken after the band and from the floor the band saw; the floor never rises
above the energy of the frame that raised it, and never falls below 1. -/
def Obligations.FloorUpdate : Prop :=
  ∀ (n : Noise) (x : Suppressor) (xs : List Sample),
    let E := meanSquare xs
    let F := x.initialised.floor
    let G := (presentFrame n x xs).1.floor
    (presentFrame n x xs).1.band = bandOf E F ∧
    (E < F → G = max E 1) ∧ (F ≤ E → G = min E (F + F / 2 ^ n.floorRiseShift + 1)) ∧
    (F < G → G ≤ E) ∧ (1 ≤ F → 1 ≤ G)

/-- The voice flag and its hangover (3.5): the three cases of a frame, and the run after the last frame at or above
vad_band, in which the flag stays 1 for vad_hangover further frames; an absent headset sets the count to 0. -/
def Obligations.VoiceHangover : Prop :=
  (∀ (n : Noise) (x : Suppressor) (xs : List Sample),
    let t := (presentFrame n x xs).1
    let h := x.initialised.hangover
    (n.vadBand ≤ t.band → t.voice = true ∧ t.hangover = n.vadHangover) ∧
    (t.band < n.vadBand → 0 < h → t.voice = true ∧ t.hangover = h - 1) ∧
    (t.band < n.vadBand → h = 0 → t.voice = false)) ∧
  (∀ (n : Noise) (b : Nat) (bs : List Nat) (h : Nat), n.vadBand ≤ b → (∀ x ∈ bs, x < n.vadBand) →
    ((b :: bs).foldl (fun v x => nextVoice n x v.2) (false, h)).1 = decide (bs.length ≤ n.vadHangover)) ∧
  ∀ x : Suppressor, (absentFrame x).1.hangover = 0

/-- The suppressor's gain and samples (3.3): the applied gain goes to the target of the band at once when it rises and by
at most release_step when it falls; with an enabled suppressor whose gain and table lie in 0..16384, every sample of MIC_out
is the rounded product with the ramped gain, and lies in the sample range; a disabled one passes the frame through. -/
def Obligations.MicOutNeverSaturates : Prop :=
  (∀ (n : Noise) (x : Suppressor) (xs : List Sample) (b : Fin 8), n.enable = true →
    (presentFrame n x xs).1.band = b.val →
    (x.initialised.gain ≤ n.gainTable[b] → (presentFrame n x xs).1.gain = n.gainTable[b]) ∧
    (n.gainTable[b] < x.initialised.gain →
      (presentFrame n x xs).1.gain = max n.gainTable[b] (x.initialised.gain - n.releaseStep))) ∧
  (∀ (n : Noise) (x : Suppressor) (xs : List Sample), n.enable = false →
    (presentFrame n x xs).2 = xs ∧ (presentFrame n x xs).1.gain = 16384) ∧
  ∀ (n : Noise) (x : Suppressor) (xs : List Sample) (i : Nat), (∀ j : Fin 8, n.gainTable[j] ≤ 16384) →
    x.gain ≤ 16384 → n.enable = true → xs.length = 80 → (∀ v ∈ xs, -32768 ≤ v ∧ v ≤ 32767) → i < 80 →
    ∃ v g : Int, xs[i]? = some v ∧
      g = (x.initialised.gain : Int) + (((presentFrame n x xs).1.gain - x.initialised.gain : Int) * (i + 1)).tdiv 80 ∧
      0 ≤ g ∧ g ≤ 16384 ∧ (presentFrame n x xs).2[i]? = some ((v * g + 8192) / 16384) ∧
      -32768 ≤ (v * g + 8192) / 16384 ∧ (v * g + 8192) / 16384 ≤ 32767

/-- The duck ramp (4.6): from D_prev it moves to D_new within the frame, stays between the two, and scales cust_gain to
an effective gain of at most 32767, which is cust_gain itself at 16384. -/
def Obligations.DuckRamp : Prop :=
  ∀ old new i : Nat, old ≤ 16384 → new ≤ 16384 → i < 80 →
    rampAt old new 79 = new ∧
    (old ≤ new → (old : Int) ≤ rampAt old new i ∧ rampAt old new i ≤ new) ∧
    (new ≤ old → (new : Int) ≤ rampAt old new i ∧ rampAt old new i ≤ old) ∧
    ∀ cust : Nat, cust ≤ 32767 → 0 ≤ effectiveGain cust old new i ∧ effectiveGain cust old new i ≤ 32767 ∧
      (old = 16384 → new = 16384 → effectiveGain cust old new i = cust)

/-- The quiet count (4.7): n frames without a gate raise it by n, up to 20, and a gate sets it to 0, so that after a gate
the ruling lets the first cell play again in the frame after 20 quiet ones, and no earlier. -/
def Obligations.QuietCountRules : Prop :=
  (∀ q n : Nat, q ≤ 20 → (List.replicate n false).foldl (fun q g => nextQuiet g q) q = min 20 (q + n)) ∧
  ∀ q n : Nat,
    ruling false ((true :: List.replicate n false).foldl (fun q g => nextQuiet g q) q) = decide (20 ≤ n) ∧
    ruling true q = false

/-- A bus sample (8.3): the sum over 16384, rounded to the nearest with halves up, and the sample range its bound; it is
counted as saturated exactly when that quotient lies outside the range, and the clip count stops at its top. -/
def Obligations.BusSampleRounds : Prop :=
  (∀ S q : Int, 16384 * q ≤ S + 8192 → S + 8192 < 16384 * (q + 1) →
    busSample S = (if q < -32768 then -32768 else if 32767 < q then 32767 else q) ∧
    (clipped S = true ↔ q < -32768 ∨ 32767 < q)) ∧
  ∀ (sums : List Int) (n : Nat), n ≤ 4294967295 →
    nextClips sums n = min 4294967295 (n + (sums.filter fun S => decide (busSample S ≠ roundUnity S)).length)

/-- What a seat takes and hands in a frame, LINE and the sent voice (1.6, 1.7, 1.9, 4.5, 8.1).  A seat takes the debounced
status of its slot, the keys as 0 without PRESENT, the MIC samples of its slot, the samples of the Network Highway slot it
holds, else silence, the buffer of its stream while the stream plays, the fault mark and STANDALONE.  The taken status is
kept; a press, MUTE_KEY from 0 to 1, toggles the key mute flag when key_mute_allowed is 1; and the notices handed are
HEADSET_ON or HEADSET_OFF, MUTE_KEY for a press with the flag after it, TALK_KEY for a change, then the canceller's.  The
sent voice is MIC_out, and silence while the seat is muted or its headset is absent.  LINE is silence in IDLE and SUPERVISE;
in TALK it is the sent voice by mic_gain with the sent voice of the frame before of each BARGE supervisor whose gate is on by
barge_gain; in HOLD it is the stream's buffer by hold_gain while the stream plays, the fallback tone at unity when it does
not in stand-alone operation, and silence when it does not otherwise.  ON_AIR follows the sent voice in TALK alone.  Each
sample is rounded and saturated once, from the exact sum. -/
def Obligations.LineOfCallSeat : Prop :=
  (∀ (k : SeatNo) (kept : SeatNo → Kept) (i : SeatInputs) (x : Seat), i.mic.length = 80 →
    (∀ a ∈ x.governing.supervisors, (kept a.seat).sent.length = 80) → (∀ b, i.stream = some b → b.length = 80) →
    let g := x.governing
    let a := (seatAudio k kept i x).seat
    let barges := g.supervisors.filter fun q => decide (q.kind = .barge) && gateIsOn kept q
    let tone := (soundFrame g.cadence (settleUser g.cadence true true x.cadence)).2
    (g.routing.mode = .idle ∨ g.routing.mode = .supervise → a.mixer.line = silence) ∧
    (g.routing.mode = .talk → a.mixer.line.length = 80 ∧ ∀ n, n < 80 → a.mixer.line.getD n 0 =
      busSample (a.kept.sent.getD n 0 * g.levels.mic +
        (barges.map fun q => (kept q.seat).sent.getD n 0 * g.levels.barge).sum)) ∧
    (g.routing.mode = .hold → ∀ b, i.stream = some b →
      a.mixer.line = b.map fun v => busSample (v * g.levels.hold)) ∧
    (g.routing.mode = .hold → i.stream = none → i.standalone = true →
      a.cadence.fallback = true ∧ a.mixer.line = tone.map fun v => busSample (v * 16384)) ∧
    (g.routing.mode = .hold → i.stream = none → i.standalone = false → a.mixer.line = silence) ∧
    (g.routing.hostMute = true ∨ a.keyMute = true ∨ i.status.present = false →
      a.kept.sent = silence ∧ a.mixer.onAir = false) ∧
    (g.routing.hostMute = false → a.keyMute = false → i.status.present = true →
      a.kept.sent = (suppressFrame g.noise true x.suppressor i.mic).2 ∧
      a.mixer.onAir = decide (g.routing.mode = .talk))) ∧
  (∀ (s : State) (k : SeatNo),
    let d := s.sh.slots[k]
    let g := s.seats[k].governing.routing
    let i := seatInputs s k
    i.status.present = d.present.settled.value ∧
    i.status.muteKey = (d.present.settled.value && d.muteKey.settled.value) ∧
    i.status.talkKey = (d.present.settled.value && d.talkKey.settled.value) ∧
    i.fault = s.nh.fault ∧ i.standalone = s.tick.standalone ∧ i.mic.length = 80 ∧ i.y.length = 80 ∧
    (∀ n, n < 80 → i.mic.getD n 0 = (s.sh.mics.map fun row => row[k]).getD n 0) ∧
    (∀ m : SlotNo, g.mode = .talk ∨ g.mode = .hold → g.nhSlot = some m.val →
      ∀ n, n < 80 → i.y.getD n 0 = (s.nh.ys.map fun row => row[m]).getD n 0) ∧
    (g.mode = .idle ∨ g.mode = .supervise → i.y = silence) ∧
    ∀ b, i.stream = some b ↔
      ∃ j : StreamNo, g.holdStream = j.val ∧ s.streams[j].playing = true ∧ s.streams[j].buffer = b) ∧
  ∀ (k : SeatNo) (kept : SeatNo → Kept) (i : SeatInputs) (x : Seat),
    let g := x.governing
    let r := seatAudio k kept i x
    let press := i.status.muteKey = true ∧ x.status.muteKey = false
    let word (b : Bool) : Word := if b = true then 1 else 0
    r.seat.status = i.status ∧
    r.seat.keyMute = (if press ∧ g.routing.keyMuteAllowed = true then !x.keyMute else x.keyMute) ∧
    r.notices =
      (if i.status.present = true ∧ x.status.present = false then
        [(⟨.headsetOn, .seat k, 0, 0, 0⟩ : NoticeOut)] else []) ++
      (if i.status.present = false ∧ x.status.present = true then [⟨.headsetOff, .seat k, 0, 0, 0⟩] else []) ++
      (if press then [⟨.muteKey, .seat k, word r.seat.keyMute, word g.routing.keyMuteAllowed, 0⟩] else []) ++
      (if i.status.talkKey ≠ x.status.talkKey then
        [⟨.talkKey, .seat k, word i.status.talkKey, 0, 0⟩] else []) ++
      (decideState k x.blocks.length
        (cancelFrame g.echo g.routing.mode.holdsSlot i.fault x.mixer.line i.y x.canceller).1).2

/-- EAR, the voice gates and the whisper path (1.9, 4.3, 4.4, 4.6, 8.3).  The whisper path is the exact sum of the sent
voices of the frame before of the supervisors whose gates are on, and of the prompt buffer when the first cell is due
and the ruling lets it play; it is active exactly when a gate is on or the prompt plays, and then the duck value goes to
duck_gain, else to unity.  EAR adds the whisper path by whisper_gain and sidetone in every mode, CUST through the duck
ramp in TALK, the reminder at unity in HOLD outside FALLBACK use, and in SUPERVISE the target's CUST and sent voice of
the frame before by listen_gain.  Each sample is rounded and saturated once, from the exact sum.  The frames it draws on
hold 80 samples, as every step keeps them (8.1; TimelineKept). -/
def Obligations.EarOfSeat : Prop :=
  ∀ (k : SeatNo) (kept : SeatNo → Kept) (i : SeatInputs) (x : Seat), i.mic.length = 80 → i.y.length = 80 →
    (∀ a ∈ x.governing.supervisors, (kept a.seat).sent.length = 80) → x.prompt.buffer.length = 80 →
    (∀ t : SeatNo, x.governing.attachedTo = some t → (kept t).cust.length = 80 ∧ (kept t).sent.length = 80) →
    let g := x.governing
    let a := (seatAudio k kept i x).seat
    let micOut := (suppressFrame g.noise i.status.present x.suppressor i.mic).2
    let tone := (soundFrame g.cadence (settleUser g.cadence false true x.cadence)).2
    let gated := g.supervisors.filter (gateIsOn kept)
    let plays := x.prompt.due = true ∧ x.arbiter.quiet = 20 ∧ gated = []
    let active := gated ≠ [] ∨ plays
    let path (n : Nat) : Int := (gated.map fun q => (kept q.seat).sent.getD n 0).sum +
      if plays then x.prompt.buffer.getD n 0 else 0
    let always (n : Nat) : Int := path n * g.levels.whisper + micOut.getD n 0 * g.levels.side
    ((seatAudio k kept i x).plays = true ↔ plays) ∧ (a.mixer.whisper = true ↔ active) ∧
    (a.arbiter.active = true ↔ active) ∧ a.arbiter.duck = (if active then g.levels.duck else 16384) ∧
    a.mixer.ear.length = 80 ∧ ∀ n, n < 80 →
      (g.routing.mode = .idle ∨ g.routing.mode = .supervise ∧ g.attachedTo = none →
        a.mixer.ear.getD n 0 = busSample (always n)) ∧
      (g.routing.mode = .talk → a.mixer.ear.getD n 0 =
        busSample (a.kept.cust.getD n 0 * effectiveGain g.levels.cust x.arbiter.duck a.arbiter.duck n + always n)) ∧
      (g.routing.mode = .hold → i.standalone = false ∨ i.stream ≠ none →
        a.mixer.ear.getD n 0 = busSample (tone.getD n 0 * 16384 + always n)) ∧
      (g.routing.mode = .hold → i.standalone = true → i.stream = none →
        a.mixer.ear.getD n 0 = busSample (always n)) ∧
      ∀ t : SeatNo, g.routing.mode = .supervise → g.attachedTo = some t → a.mixer.ear.getD n 0 =
        busSample (((kept t).cust.getD n 0 + (kept t).sent.getD n 0) * g.levels.listen + always n)

/-! ## The echo canceller -/

/-- DOUBLE_TALK (2.4), over the samples of a frame: the comparison fires at a sample when |y| × 2^talk_ratio_shift is above
the largest magnitude in the tap window; DOUBLE_TALK holds at a sample exactly when it fires or the double-talk count is
above 0, and no tap moves there.  A firing holds it at that sample and at each of the next 80 × talk_hangover samples that
do not fire, and no longer.  With an empty or silent window any nonzero y fires.  A canceller that goes to OFF has the
count at 0. -/
def Obligations.DoubleTalkHold : Prop :=
  (∀ (e : Echo) (fault : Bool) (full : List Sample) (r : EcRun) (y : Nat × Sample),
    let fires := windowLevel (tapWindow full e.bulkDelay r.taps.length y.1) < y.2.natAbs * 2 ^ e.talkRatioShift
    let q := ecSample e fault full { r with doubleTalk := false } y
    (q.doubleTalk = true ↔ fires ∨ 0 < r.talk) ∧ (q.doubleTalk = true → q.taps = r.taps) ∧
    ((ecSample e fault full r y).doubleTalk = true ↔ r.doubleTalk = true ∨ fires ∨ 0 < r.talk) ∧
    (fires → q.talk = 80 * e.talkHangover) ∧ (¬ fires → q.talk = r.talk - 1)) ∧
  (∀ (e : Echo) (fault : Bool) (full : List Sample) (r : EcRun) (first last : Nat × Sample)
      (ys : List (Nat × Sample)),
    let fires (y : Nat × Sample) :=
      windowLevel (tapWindow full e.bulkDelay r.taps.length y.1) < y.2.natAbs * 2 ^ e.talkRatioShift
    fires first → (∀ y ∈ ys, ¬ fires y) → ¬ fires last →
    let q := ys.foldl (ecSample e fault full) (ecSample e fault full r first)
    (ecSample e fault full { q with doubleTalk := false } last).doubleTalk = decide (ys.length < 80 * e.talkHangover)) ∧
  (∀ (w : List Sample) (y : Sample) (shift : Nat), (∀ v ∈ w, v = 0) → y ≠ 0 →
    windowLevel w < y.natAbs * 2 ^ shift) ∧
  ∀ (zero : Bool) (x : Canceller), x.state ≠ .off → (promoteCanceller 0 zero x).talk = 0 ∧
    (promoteCanceller 0 zero x).state = .off

/-- The taps of a frame (2.1 to 2.8).  Entry m of the window at sample i is the sample stamped d + m before it, 0 past
the history.  A sample has the rounded, saturated estimate of the taps before it, the saturated error, and the exact P
and M of its window; LOW_REFERENCE holds when P is below reference_floor.  With no reason the step g is formed from the
error and P and every tap gains its own rounded product, each saturated; with a reason the taps stand.  A frame of a
running canceller takes its samples in order from the history and the LINE frame handed in; its errors are CUST, and it
leaves the history moved on by 80 samples, the figures and the reasons.  A canceller that is OFF passes y on and has no
reason, with P and M 0 (assumption 39, a DESIGN CHOICE for M).  When the next frame opens, no blocks mean OFF and no
taps; blocks for one that was OFF, and a restart that zeroes, mean CONVERGING with zero taps; and a change of length
keeps the taps of the blocks that stay, the others being 0, and is CONVERGING.  A frame that the Network Highway marks
as a fault frame leaves every tap, and so does one with host_freeze; any frame leaves as many taps as there were, each
within 24 signed bits when they were. -/
def Obligations.TapsHold : Prop :=
  (∀ (e : Echo) (active fault : Bool) (line y : List Sample) (x : Canceller),
    (fault = true ∨ e.hostFreeze = true → (cancelFrame e active fault line y x).1.taps = x.taps) ∧
    (cancelFrame e active fault line y x).1.taps.length = x.taps.length ∧
    ((∀ h ∈ x.taps, -8388608 ≤ h ∧ h ≤ 8388607) →
      ∀ h ∈ (cancelFrame e active fault line y x).1.taps, -8388608 ≤ h ∧ h ≤ 8388607)) ∧
  (∀ (full : List Sample) (delay taps i m : Nat), i < 80 → m < taps →
    (tapWindow full delay taps i).length = taps ∧
    (tapWindow full delay taps i).getD m 0 = full.getD (79 - i + delay + m) 0) ∧
  (∀ (e : Echo) (fault : Bool) (full : List Sample) (r : EcRun) (i : Nat) (y : Sample),
    let w := tapWindow full e.bulkDelay r.taps.length i
    let tap (m : Nat) : Int := r.taps.getD m 0
    let ref (m : Nat) : Int := w.getD m 0
    let acc : Int := ((List.range r.taps.length).map fun m => tap m * ref m).sum
    let sat (v : Int) : Int := max (-32768) (min 32767 v)
    let err := sat (y - sat ((acc + 4194304) / 8388608))
    let P := ((List.range r.taps.length).map fun m => (ref m).natAbs * (ref m).natAbs).sum
    let g := max (-2147483648) (min 2147483647 ((err * 2 ^ (31 - e.stepShift)).tdiv (P + 65536)))
    let q := ecSample e fault full r (i, y)
    let talks := (ecSample e fault full { r with doubleTalk := false } (i, y)).doubleTalk = true
    let held := talks ∨ e.hostFreeze = true ∨ P < e.referenceFloor ∨ fault = true
    q.errors = err :: r.errors ∧ q.power = P ∧
    (∀ m, m < r.taps.length → (ref m).natAbs ≤ q.level) ∧
    (q.level = 0 ∨ ∃ m, m < r.taps.length ∧ q.level = (ref m).natAbs) ∧
    (q.lowReference = true ↔ r.lowReference = true ∨ P < e.referenceFloor) ∧
    (held → q.taps = r.taps) ∧
    (¬ held → q.taps.length = r.taps.length ∧ ∀ m, m < r.taps.length →
      q.taps.getD m 0 = max (-8388608) (min 8388607 (tap m + (g * ref m + 128) / 256)))) ∧
  (∀ (e : Echo) (active fault : Bool) (line y : List Sample) (x : Canceller),
    let full := line.reverse ++ x.history
    let r := (y.mapIdx fun i v => (i, v)).foldl (ecSample e fault full)
      ⟨x.taps, x.talk, x.power, x.level, false, false, []⟩
    let c := cancelFrame e active fault line y x
    let figure (vs : List Sample) : Nat := if active = true then meanSquare vs else 0
    let reference := (List.range 80).map fun m => full.getD (e.bulkDelay + m) 0
    let history := (List.range 2048).map fun m => full.getD m 0
    (x.state ≠ .off → c.2 = r.errors.reverse ∧ c.1 = { x with
      taps := r.taps, talk := r.talk, power := r.power, level := r.level, history := history
      ex := figure reference, ey := figure y, ee := figure c.2
      reasons := ⟨r.doubleTalk, e.hostFreeze, r.lowReference, fault⟩ }) ∧
    (x.state = .off → c.2 = y ∧ c.1 = { x with
      history := history, power := 0, level := 0, ex := figure reference, ey := figure y, ee := figure y
      reasons := ⟨false, false, false, false⟩ })) ∧
  ∀ (blocks : Nat) (zero : Bool) (x : Canceller),
    let c := promoteCanceller blocks zero x
    let restarted (taps : List Int) : Canceller :=
      { x with state := .converging, taps := taps, convergenceRun := 0, lossRun := 0 }
    (blocks = 0 → x.state = .off → c = x) ∧
    (blocks = 0 → x.state ≠ .off → c = { x with
      state := .off, taps := [], talk := 0, convergenceRun := 0, lossRun := 0 }) ∧
    (1 ≤ blocks → x.state = .off ∨ zero = true → c = restarted (List.replicate (64 * blocks) 0)) ∧
    (1 ≤ blocks → x.state ≠ .off → zero = false → x.taps.length = 64 * blocks → c = x) ∧
    (1 ≤ blocks → x.state ≠ .off → zero = false → x.taps.length ≠ 64 * blocks →
      c = restarted ((List.range (64 * blocks)).map fun m => x.taps.getD m 0))

/-- The runs of the canceller (2.7), over any frames' figures and hold reasons.  A frame qualifies when no reason held and
Ey is above 0.  From a convergence run of 0, qualifying frames with 8 × Ee at most Ey raise the run by 1 each, and the 40th
in a row takes the canceller to TRACKING with both runs 0 and hands EC_TRACKING with the blocks held; from a loss run of 0,
qualifying frames with Ee at least Ey take it in the same way at the 100th to CONVERGING with EC_LOST.  A qualifying frame
that fails its test sets the run to 0, and a frame that does not qualify leaves both runs and the state. -/
def Obligations.FortyFramesToTracking : Prop :=
  ∀ (k : SeatNo) (held : Nat) (x : Canceller),
    let at' (f : Nat × Nat × HoldReasons) (c : Canceller) : Canceller := { c with ey := f.1, ee := f.2.1, reasons := f.2.2 }
    let none' : HoldReasons := ⟨false, false, false, false⟩
    let frame (a : Canceller × List NoticeOut) (f : Nat × Nat × HoldReasons) :=
      let d := decideState k held (at' f a.1)
      (d.1, a.2 ++ d.2)
    (∀ fs : List (Nat × Nat × HoldReasons), (∀ f ∈ fs, 0 < f.1 ∧ 8 * f.2.1 ≤ f.1 ∧ f.2.2 = none') →
      x.state = .converging → x.convergenceRun = 0 →
      let r := fs.foldl frame (x, [])
      (fs.length < 40 → r.1.state = .converging ∧ r.1.convergenceRun = fs.length ∧ r.1.lossRun = x.lossRun ∧
        r.1.taps = x.taps ∧ r.2 = []) ∧
      (fs.length = 40 → r.1.state = .tracking ∧ r.1.convergenceRun = 0 ∧ r.1.lossRun = 0 ∧ r.1.taps = x.taps ∧
        r.2 = [⟨.ecTracking, .seat k, BitVec.ofNat 32 held, 0, 0⟩])) ∧
    (∀ fs : List (Nat × Nat × HoldReasons), (∀ f ∈ fs, 0 < f.1 ∧ f.1 ≤ f.2.1 ∧ f.2.2 = none') →
      x.state = .tracking → x.lossRun = 0 →
      let r := fs.foldl frame (x, [])
      (fs.length < 100 → r.1.state = .tracking ∧ r.1.lossRun = fs.length ∧
        r.1.convergenceRun = x.convergenceRun ∧ r.1.taps = x.taps ∧ r.2 = []) ∧
      (fs.length = 100 → r.1.state = .converging ∧ r.1.convergenceRun = 0 ∧ r.1.lossRun = 0 ∧ r.1.taps = x.taps ∧
        r.2 = [⟨.ecLost, .seat k, BitVec.ofNat 32 held, 0, 0⟩])) ∧
    ∀ f : Nat × Nat × HoldReasons,
      (x.state = .converging → 0 < f.1 → f.1 < 8 * f.2.1 → f.2.2 = none' →
        decideState k held (at' f x) = ({ at' f x with convergenceRun := 0 }, [])) ∧
      (x.state = .tracking → 0 < f.1 → f.2.1 < f.1 → f.2.2 = none' →
        decideState k held (at' f x) = ({ at' f x with lossRun := 0 }, [])) ∧
      (x.state = .off ∨ f.1 = 0 ∨ f.2.2 ≠ none' → decideState k held (at' f x) = (at' f x, []))

/-- Residual attenuation (2.6): it acts on the frame's CUST exactly when the canceller was TRACKING at the start of the
frame, the frame's voice flag is 1 and DOUBLE_TALK held at no sample; it acts on CUST alone. -/
def Obligations.ResidualAttenuation : Prop :=
  ∀ (k : SeatNo) (kept : SeatNo → Kept) (i : SeatInputs) (x : Seat),
    let g := x.governing
    let e := cancelFrame g.echo g.routing.mode.holdsSlot i.fault x.mixer.line i.y x.canceller
    let v := (suppressFrame g.noise i.status.present x.suppressor i.mic).1.voice
    let a := (seatAudio k kept i x).seat
    a.kept.cust =
      (if x.canceller.state = .tracking ∧ v = true ∧ e.1.reasons.doubleTalk = false then
        e.2.map fun y : Int => max (-32768) (min 32767 ((y * g.echo.residualGain + 8192) / 16384))
      else e.2) ∧
    a.canceller = (decideState k x.blocks.length e.1).1

/-! ## The cadence unit -/

/-- The cadence unit (7.2 to 7.4), in either use.  The settings are the seat's in REMINDER use and those of Table 7-3 in
FALLBACK use.  At the start of a frame's work the unit is in FALLBACK use exactly in HOLD in stand-alone operation with no
stream playing.  A use that begins starts ON from position 0; one that goes on stands; one that ends restarts the reminder in
HOLD with reminder_enable 1, OFF, or ON when off_frames is 0, and else stops, from position 0.  Otherwise a start that is due
sets OFF, or ON from position 0 when off_frames is 0; a stop sets STOPPED and keeps the position; and a new half_period in ON
sets position 0.  Nothing stays due, and the unit of a seat out of service settles as not in HOLD.  At the end of each frame
the elapsed count rises, and an ON phase of on_frames or more gives way to STOPPED in SINGLE mode, to ON with the position
carried on when off_frames is 0, and else to OFF; an OFF phase of off_frames or more to ON at position 0.  So from its start
a phase runs its length exactly; a STOPPED unit stands. -/
def Obligations.CadencePhases : Prop :=
  (∀ (x : Cadence) (u : CadenceUnit),
    let y : Cadence := if u.fallback = true then ⟨true, 20, 4096, 60, 600, false⟩ else x
    u.elapsed = 0 → 1 ≤ y.onFrames →
    (u.phase = .on → ∀ n, n < y.onFrames → (endPhase x)^[n] u = { u with elapsed := n }) ∧
    (u.phase = .on → (endPhase x)^[y.onFrames] u =
      if y.single = true then { u with phase := .stopped }
      else if y.offFrames = 0 then u else { u with phase := .off }) ∧
    (u.phase = .off → 1 ≤ y.offFrames → (∀ n, n < y.offFrames → (endPhase x)^[n] u = { u with elapsed := n }) ∧
      (endPhase x)^[y.offFrames] u = { u with phase := .on, position := 0 }) ∧
    (u.phase = .stopped → ∀ n, (endPhase x)^[n] u = u)) ∧
  (∀ (x : Cadence) (u : CadenceUnit),
    let y : Cadence := if u.fallback = true then ⟨true, 20, 4096, 60, 600, false⟩ else x
    (u.phase = .on → endPhase x u =
      if u.elapsed + 1 < y.onFrames then { u with elapsed := u.elapsed + 1 }
      else if y.single = true then { u with phase := .stopped, elapsed := 0 }
      else if y.offFrames = 0 then { u with elapsed := 0 } else { u with phase := .off, elapsed := 0 }) ∧
    (u.phase = .off → endPhase x u =
      if u.elapsed + 1 < y.offFrames then { u with elapsed := u.elapsed + 1 }
      else { u with phase := .on, elapsed := 0, position := 0 })) ∧
  (∀ (x : Cadence) (wanted inHold : Bool) (u : CadenceUnit),
    let t := settleUser x wanted inHold u
    let began : Phase := if x.offFrames = 0 then .on else .off
    (wanted = true → u.fallback = true → t = { u with due := none, newPeriod := false }) ∧
    (wanted = true → u.fallback = false → t = ⟨.on, 0, 0, true, none, false⟩) ∧
    (wanted = false → u.fallback = true →
      t = ⟨if inHold = true ∧ x.reminderEnable = true then began else .stopped, 0, 0, false, none, false⟩) ∧
    (wanted = false → u.fallback = false →
      (u.due = some true → t = ⟨began, 0, if x.offFrames = 0 then 0 else u.position, false, none, false⟩) ∧
      (u.due = some false → t = ⟨.stopped, 0, u.position, false, none, false⟩) ∧
      (u.due = none → t = ⟨u.phase, u.elapsed, if u.newPeriod = true ∧ u.phase = .on then 0 else u.position, false,
        none, false⟩))) ∧
  (∀ (k : SeatNo) (kept : SeatNo → Kept) (i : SeatInputs) (x : Seat),
    let g := x.governing
    let held := g.routing.mode = .hold
    let t := settleUser g.cadence (decide (i.standalone = true ∧ held ∧ i.stream = none)) (decide held) x.cadence
    (seatAudio k kept i x).seat.cadence = (soundFrame g.cadence t).1 ∧
    ((seatAudio k kept i x).seat.cadence.fallback = true ↔ i.standalone = true ∧ held ∧ i.stream = none)) ∧
  ∀ (e : Env) (k : SeatNo) (x : Seat) (io : Io),
    (idleSeat e k x io).1.cadence = settleUser x.governing.cadence false false x.cadence

/-- The tone (7.1, 7.4): from a position within the period, sample i is +a in the first half of the period and −a in the
second, counted on from the position, with the seat's half_period and amplitude in REMINDER use and with 20 and 4096 in
FALLBACK use; the position is carried to the next frame, and stays put in any other phase, whose samples are zero. -/
def Obligations.ToneSamples : Prop :=
  ∀ (x : Cadence) (u : CadenceUnit),
    let half := if u.fallback = true then 20 else x.halfPeriod
    let high : Int := if u.fallback = true then 4096 else x.amplitude
    (1 ≤ half → u.position < 2 * half → u.phase = .on →
      (soundFrame x u).1 = { u with position := (u.position + 80) % (2 * half) } ∧
      (soundFrame x u).1.position < 2 * half ∧ (soundFrame x u).2.length = 80 ∧
      ∀ i, i < 80 → (soundFrame x u).2[i]? =
        some (if (u.position + i) % (2 * half) < half then high else -high)) ∧
    (u.phase ≠ .on → soundFrame x u = (u, List.replicate 80 0))

/-! ## Records -/

/-- The seat report and the stream report, word by word (8.6, 5.7, Tables 12-12 and 12-4).  The words of a seat report are
the edition, the governing mode, target and attachment list, the canceller, suppressor, status and flag bits, the first cell
and the cadence phase and user, the frame figures, floor and gain, the mean squares of EAR and LINE, the clip counts, the
adopted host_freeze in word 34h with its other bits 0, the settings words of the adopted ECHO, NOISE, LEVELS and CADENCE,
and the frame number; every bit that the table does not name is 0.  Those of a stream report are the frame number, the
edition and its mark, the state, the current segment, the loop cursor, the listener count and the frames-starved count.  The
settings words give back the settings they were formed from, when those lie in their ranges: every field is written at the
position it is read from. -/
def Obligations.SettingsWordsRoundTrip : Prop :=
  (∀ l : Levels, l.inRange → ∃ a b x d, levelWords l = [a, b, x, d] ∧ parseLevels a b x d = l) ∧
  (∀ n : Noise, n.inRange → ∃ a b x d e f, noiseWords n = [a, b, x, d, e, f] ∧ parseNoise a b x d e f = n) ∧
  (∀ y : Cadence, y.inRange → ∃ a b x, cadenceWords y = [a, b, x] ∧ parseCadence a b x = y ∧ a.getLsbD 2 = false) ∧
  (∀ e : Echo, e.inRange → ∃ a b x d, echoWords e = [a, b, x, d] ∧
    parseEcho (pack [(0, flagNat e.enable), (1, flagNat e.hostFreeze)]) a b x d = e) ∧
  (∀ (frame : Word) (x : Seat) (phase : Phase) (fallback : Bool), x.blocks.length ≤ 255 → x.suppressor.band ≤ 7 →
    let r := seatReport frame x phase fallback
    let g := x.governing
    let bit (b : Bool) (n : Nat) : Nat := if b = true then 2 ^ n else 0
    let number (k : Option SeatNo) : Nat := (k.map fun j => j.val).getD 255
    let mode : Nat := match g.routing.mode with
      | .idle => 0
      | .talk => 1
      | .hold => 2
      | .supervise => 3
    let state : Nat := match x.canceller.state with
      | .off => 0
      | .converging => 1
      | .tracking => 2
    let first : Nat := match x.prompt.order.head? with
      | none => 15
      | some q => q.cell.val + 256 * match q.expected with
        | .empty => 0
        | .posted => 1
        | .playing => 2
        | .paused => 3
        | .done => 4
    let sounding : Nat := match phase with
      | .stopped => 0
      | .on => 1
      | .off => 2
    let held := x.canceller.reasons
    r.length = 32 ∧ r.getD 0 0 = x.edition.getD 0 ∧
    (r.getD 1 0).toNat = mode + 256 * number g.attachedTo + 65536 * number (g.supervisors[0]?.map Attachment.seat) +
      16777216 * number (g.supervisors[1]?.map Attachment.seat) ∧
    (r.getD 2 0).toNat = state + bit held.doubleTalk 4 + bit held.hostFreeze 5 + bit held.lowReference 6 +
      bit held.networkFault 7 + 256 * x.blocks.length + 65536 * x.suppressor.band + bit x.suppressor.voice 19 +
      bit x.status.present 20 + bit x.status.muteKey 21 + bit x.status.talkKey 22 + bit x.keyMute 23 +
      bit x.arbiter.active 24 + bit x.edition.isSome 31 ∧
    (r.getD 3 0).toNat = first + 65536 * sounding + bit fallback 18 ∧
    r.drop 4 = ([x.canceller.ex, x.canceller.ey, x.canceller.ee, x.suppressor.floor, x.suppressor.gain,
        meanSquare x.mixer.ear, meanSquare x.mixer.line, x.mixer.earClips, x.mixer.lineClips].map (BitVec.ofNat 32)) ++
      [if x.adopted.echo.hostFreeze = true then 2 else 0] ++ echoWords x.adopted.echo ++ noiseWords x.adopted.noise ++
      levelWords x.adopted.levels ++ cadenceWords x.adopted.cadence ++ [frame]) ∧
  ∀ (frame : Word) (st : Stream),
    let state : Nat := match st.state with
      | .disabled => 0
      | .waiting => 1
      | .running => 2
      | .starved => 3
    let segment (g : Segment) : Nat := match g with
      | .a => 1
      | .b => 2
    streamReport frame st = [frame, st.edition.getD 0, if st.edition = none then 0 else 1, BitVec.ofNat 32 state,
      BitVec.ofNat 32 (match st.position with
        | none => 0
        | some (.oneShot g _ _) => segment g
        | some (.loop g _ _ _) => segment g),
      BitVec.ofNat 32 (match st.position with
        | some (.loop _ _ _ cursor) => cursor
        | _ => 0),
      BitVec.ofNat 32 st.listeners, BitVec.ofNat 32 st.framesStarved]

/-- A seat record that is taken (1.2, 1.4, 10.7).  Refused, it changes nothing but the seat's adopted edition and the
FAULT class, which takes SETTINGS_REJECTED with the reason; one that names no group takes the edition alone; after
either a seat that waits for its tail has its retry (assumption 15, DEDUCED from R39 and R184).  With no bus turns a
changed record whose edition reads the same again is taken from its words; one whose edition does not is torn and, like
an unchanged one, leaves the retry alone.  Adopted, it stores the settings of the groups it names and no others, gives
its cancel marks, and leaves due what acts when the next frame opens (the key mute flag's clearing, the suppressor's
initial values, the reminder, the zeroing of taps, a new half_period).  The governing settings and the rest of the seat
stand, and other seats change in their attachments alone.  It hands SUPERVISOR_DETACHED with cause TARGET_IDLE for each
entry of the list, first then second, when the seat enters IDLE from a call; POOL_SHORT when its request or its growth
falls short, not for a retry; and nothing else.  Its tail: a seat that comes to TALK or HOLD with ec_enable 1, or waits
there, asks for one; one that holds blocks shrinks to a smaller request, grows to a request the record raises above them
when the floor is reached, and else keeps them (that a record that does not raise it never grows the tail is assumption
15, DEDUCED from R38 and R42); any other seat is left with none. -/
def Obligations.RefusedRecordFrame : Prop :=
  (∀ (s : State) (k : SeatNo) (edition : Word) (r : SeatRecord) (why : Reason), checkRecord s k r = some why →
    let q := { s with
      seats := s.seats.set k { s.seats[k] with edition := some edition }
      io := hand s.env .settingsRejected (.seat k) (BitVec.ofNat 32 why.encode) 0 0 s.io }
    s.takeSeat k edition r = if s.seats[k].waiting = true then q.requestTail k false else q) ∧
  (∀ (s : State) (k : SeatNo) (edition : Word) (r : SeatRecord), r.namesRouting = false → r.namesEcho = false →
    r.namesNoise = false → r.namesLevels = false → r.namesCadence = false → r.namesCancel = false →
    let q := { s with seats := s.seats.set k { s.seats[k] with edition := some edition } }
    s.takeSeat k edition r = if s.seats[k].waiting = true then q.requestTail k false else q) ∧
  (∀ (s : State) (k : SeatNo) (edition : Word), s.io.turns = [] →
    let word (a : Nat) := readMemWord (s.area.toNat + 0x1000 + 128 * k.val + a) s.io.mem
    let waits := if s.seats[k].waiting = true then s.requestTail k false else s
    seatPlace s (k, none) = waits ∧
    (word 0 ≠ edition → seatPlace s (k, some edition) = waits) ∧
    (word 0 = edition → seatPlace s (k, some edition) =
      s.takeSeat k edition (parseSeat ((List.range 22).map fun i => word (4 + 4 * i))))) ∧
  (∀ (s : State) (k : SeatNo) (old : Nat),
    let e := s.seats[k].adopted.echo
    let held := s.seats[k].blocks.length
    let n := min e.tailRequest (held + s.pool.length)
    (e.tailRequest < held → s.resizeTail k old = s.releaseTail k e.tailRequest) ∧
    (held ≤ e.tailRequest → e.tailRequest ≤ old ∨ e.tailRequest = held → s.resizeTail k old = s) ∧
    (old < e.tailRequest → held < e.tailRequest → e.tailFloor ≤ n → s.resizeTail k old = s.grantTail k (n - held)) ∧
    (old < e.tailRequest → held < e.tailRequest → n < e.tailFloor → s.resizeTail k old = { s with
      io := hand s.env .poolShort (.seat k) (BitVec.ofNat 32 e.tailRequest) (BitVec.ofNat 32 e.tailFloor)
        (BitVec.ofNat 32 s.pool.length) s.io })) ∧
  ∀ (s : State) (k : SeatNo) (edition : Word) (r : SeatRecord), checkRecord s k r = none → s.tailOk →
    let t := s.takeSeat k edition r
    let x := s.seats[k]
    let old := x.adopted
    let new := t.seats[k].adopted
    let d := t.seats[k].due
    let held := x.blocks
    let n := min new.echo.tailRequest (held.length + s.pool.length)
    let granted := held ++ s.pool.take (n - held.length)
    let starts := new.routing.mode = .hold ∧ new.cadence.reminderEnable = true ∧
      (old.routing.mode ≠ .hold ∨ r.namesCadence = true ∧ (old.cadence.reminderEnable = false ∨ r.restart = true))
    let stops := old.routing.mode = .hold ∧ new.routing.mode ≠ .hold ∨
      r.namesCadence = true ∧ old.cadence.reminderEnable = true ∧ new.cadence.reminderEnable = false
    t = { s with seats := t.seats, streams := t.streams, pool := t.pool, slotMap := t.slotMap, io := t.io } ∧
    t.io = { s.io with seatClass := t.io.seatClass } ∧
    t.io = handAll s.env
      ((if old.routing.mode.holdsSlot = true ∧ new.routing.mode = .idle then
          old.supervisors.map fun a => ⟨.supervisorDetached, .seat a.seat, BitVec.ofNat 32 k.val, 1, 0⟩ else []) ++
        if new.runsEcho = true ∧ n < new.echo.tailFloor ∧
            (held = [] ∧ (old.runsEcho = false ∨ r.namesEcho = true) ∨
              held ≠ [] ∧ r.namesEcho = true ∧ old.echo.tailRequest < new.echo.tailRequest) then
          [⟨.poolShort, .seat k, BitVec.ofNat 32 new.echo.tailRequest, BitVec.ofNat 32 new.echo.tailFloor,
            BitVec.ofNat 32 s.pool.length⟩] else []) s.io ∧
    t.seats[k] = { x with edition := some edition, adopted := new, due := d, blocks := t.seats[k].blocks,
                          waiting := t.seats[k].waiting, prompt := t.seats[k].prompt } ∧
    (∀ j : SeatNo, j ≠ k → t.seats[j] = { s.seats[j] with adopted := { s.seats[j].adopted with
      attachedTo := t.seats[j].adopted.attachedTo, supervisors := t.seats[j].adopted.supervisors } }) ∧
    new.routing = (if r.namesRouting = true then
      { mode := (decodeMode r.routing.mode).getD .idle, nhSlot := some r.routing.nhSlot,
        holdStream := r.routing.holdStream, target := some r.routing.target, kind := r.routing.kind,
        pushToTalk := r.routing.pushToTalk, hostMute := r.routing.hostMute,
        keyMuteAllowed := r.routing.keyMuteAllowed } else old.routing) ∧
    new.echo = (if r.namesEcho = true then r.echo else old.echo) ∧
    new.noise = (if r.namesNoise = true then r.noise else old.noise) ∧
    new.levels = (if r.namesLevels = true then r.levels else old.levels) ∧
    new.cadence = (if r.namesCadence = true then r.cadence else old.cadence) ∧
    t.seats[k].prompt = (if r.namesCancel = true then { x.prompt with order := x.prompt.order.map fun q =>
        if r.cancelAll = true ∨ q.cell.val = r.cancelCell then { q with mark := some (q.mark.getD .cancelled) } else q }
      else x.prompt) ∧
    (d.clearKeyMute = true ↔ x.due.clearKeyMute = true ∨
      old.routing.keyMuteAllowed = true ∧ new.routing.keyMuteAllowed = false ∨
      old.routing.mode ≠ .idle ∧ new.routing.mode = .idle) ∧
    (d.initSuppressor = true ↔ x.due.initSuppressor = true ∨ old.routing.mode = .idle ∧ new.routing.mode ≠ .idle) ∧
    (d.zeroTaps = true ↔ x.due.zeroTaps = true ∨ r.namesEcho = true ∧ new.runsEcho = true ∧ x.blocks ≠ [] ∧
      (r.clearTaps = true ∨ old.echo.bulkDelay ≠ new.echo.bulkDelay)) ∧
    d.reminder = (if starts then some true else if stops then some false else x.due.reminder) ∧
    d.newPeriod = (if r.namesCadence = true then decide (old.cadence.halfPeriod ≠ new.cadence.halfPeriod)
      else x.due.newPeriod) ∧
    (s.poolOk → t.poolOk) ∧ (new.runsEcho = false → t.seats[k].blocks = [] ∧ t.seats[k].waiting = false) ∧
    (new.runsEcho = true → held = [] → old.runsEcho = false ∨ r.namesEcho = true ∨ s.seats[k].waiting = true →
      (new.echo.tailFloor ≤ n → t.seats[k].blocks = granted ∧ t.seats[k].waiting = false) ∧
      (n < new.echo.tailFloor → t.seats[k].blocks = [] ∧ t.seats[k].waiting = true)) ∧
    (new.runsEcho = true → held ≠ [] →
      t.seats[k].waiting = false ∧ t.seats[k].blocks =
        if r.namesEcho = false then held
        else if new.echo.tailRequest < held.length then held.take new.echo.tailRequest
        else if old.echo.tailRequest < new.echo.tailRequest ∧ new.echo.tailFloor ≤ n then granted
        else held)

/-- The checks of a seat record (Table 1-6, R44, R123, R183): the reason a record is refused with is that of the first check,
in the order ROUTING, ECHO, PROMPT_CANCEL and in the order of each group, that fails for the groups the record names, and none
fails for a record that passes.  ROUTING's are those of the requested mode; so a request for TALK passes exactly when its slot
is one of the 32 and no other seat holds it, and one for HOLD when its stream is also one of the 16 or none.  TAIL_RANGE is
for a tail_request or tail_floor outside 1..16 or a floor above the request, DELAY_RANGE for a bulk_delay above 1023, and
CELL_RANGE for a cancel_cell above 3 that is not 255; a group that the record does not name is not checked. -/
def Obligations.CallRequestChecks : Prop :=
  (∀ (s : State) (k : SeatNo) (record : SeatRecord),
    let r := record.routing
    let m := decodeMode r.mode
    let call := m = some .talk ∨ m = some .hold
    let target (p : Settings → Prop) := ∃ t : SeatNo, r.target = t.val ∧ p s.seats[t].adopted
    let fails : Reason → Prop := fun why =>
      match why with
      | .badMode => m = none ∨ m = some .supervise ∧ 3 ≤ r.kind
      | .slotRange => call ∧ 31 < r.nhSlot
      | .slotTaken => call ∧ ∃ (n : SlotNo) (j : SeatNo), r.nhSlot = n.val ∧ s.slotMap[n] = some j ∧ j ≠ k
      | .streamRange => m = some .hold ∧ 15 < r.holdStream ∧ r.holdStream ≠ 255
      | .targetInvalid => m = some .supervise ∧
          (r.target = k.val ∨ s.header.seats ≤ r.target ∨ 31 < r.target ∨ target fun g => g.routing.mode = .supervise)
      | .targetIdle => m = some .supervise ∧ target fun g => g.routing.mode = .idle
      | .targetFull => m = some .supervise ∧ target fun g =>
          2 ≤ g.supervisors.length ∧ ∀ a ∈ g.supervisors, a.seat ≠ k
      | .hasSupervisors => m = some .supervise ∧ s.seats[k].adopted.supervisors ≠ []
      | _ => False
    let echo := record.echo
    let refuses : Reason → Prop := fun why =>
      match why with
      | .tailRange => record.namesEcho = true ∧ (echo.tailRequest < 1 ∨ 16 < echo.tailRequest ∨
          echo.tailFloor < 1 ∨ 16 < echo.tailFloor ∨ echo.tailRequest < echo.tailFloor)
      | .delayRange => record.namesEcho = true ∧ 1023 < echo.bulkDelay
      | .cellRange => record.namesCancel = true ∧ 3 < record.cancelCell ∧ record.cancelCell ≠ 255
      | why => record.namesRouting = true ∧ fails why
    (checkRouting s k r = none ↔ ∀ why, ¬ fails why) ∧
    (∀ why, checkRouting s k r = some why ↔ fails why ∧ ∀ w, w.encode < why.encode → ¬ fails w) ∧
    (checkRecord s k record = none ↔ ∀ why, ¬ refuses why) ∧
    ∀ why, checkRecord s k record = some why ↔ refuses why ∧ ∀ w, w.encode < why.encode → ¬ refuses w) ∧
  ∀ (s : State) (k : SeatNo) (r : RoutingRecord),
    (decodeMode r.mode = some .talk → (checkRouting s k r = none ↔
      ∃ n : SlotNo, r.nhSlot = n.val ∧ (s.slotMap[n] = none ∨ s.slotMap[n] = some k))) ∧
    (decodeMode r.mode = some .hold → (checkRouting s k r = none ↔
      (∃ n : SlotNo, r.nhSlot = n.val ∧ (s.slotMap[n] = none ∨ s.slotMap[n] = some k)) ∧
        (r.holdStream < 16 ∨ r.holdStream = 255))) ∧
    (decodeMode r.mode = some .idle → checkRouting s k r = none)

/-- The header and the scan (10.5, 10.6).  A refused header changes nothing but the adopted edition and LAYOUT_BAD; an adopted
one clears LAYOUT_BAD and takes every field from its word, brought into range: seats in 1..32, DIV in 1..255, L from 256, or
the fewest bits the slots need, to 4096, the flags of the Network Highway by their bits, and a period of 0 or 20..4000.  A
lowered count takes the seats at and above it out of service: each is IDLE, detached, with no supervisors, blocks, waiting
condition or edition, its key mute flag and its reminder due to stop, and every cue of its order marked ABANDONED unless it has
a mark; its slot is free, its stream loses a listener, and each supervisor still on its list when its turn comes, in
seat-number order, is detached with SUPERVISOR_DETACHED.  Every other seat changes in its attachments alone, and nothing else
of the state does.  With no bus turns a header whose edition reads as adopted is left, and any other is read and taken; then,
while LAYOUT_BAD stands, only the waiting seats retry, and otherwise each seat that serves and stays in service, then each
stream, is taken in number order when its edition differs from the adopted one. -/
def Obligations.HeaderTakenOrRefused : Prop :=
  (∀ (s : State) (edition w00 w08 w0C w10 w14 w18 w1C w20 : Word),
    let h := parseHeader [w00, w08, w0C, w10, w14, w18, w1C, w20]
    let low (w : Word) : Nat := (w.extractLsb' 0 16).toNat
    let div (w : Word) : Nat := max 1 (min 255 (low w))
    let width := if w14.getLsbD 2 = true then 16 else 32
    let need := (if w14.getLsbD 4 = true then 33 else 32) * width
    (w00 ≠ 1 → s.takeHeader edition h =
      { s with header := { s.header with edition := some edition, layoutBad := true } }) ∧
    (w00 = 1 →
      let t := s.takeHeader edition h
      t.header.edition = some edition ∧ t.header.layoutBad = false ∧ t.header.adopted = true ∧
      t.header.serving = s.header.serving ∧ t.header.seats = max 1 (min 32 w08.toNat) ∧
      t.sh.adopted = { div := div w0C, odd := w0C.getLsbD 16, len := max 1024 (min 4096 (low w10)) } ∧
      t.nh.adopted = { enable := w14.getLsbD 0, lead := w14.getLsbD 1, narrow := w14.getLsbD 2,
                       span := w14.getLsbD 3, check := w14.getLsbD 4,
                       divider := { div := div w18, odd := w18.getLsbD 16,
                                    len := max need (max 256 (min 4096 (low w1C))) } } ∧
      t.tick.period = (if w20 = 0 then 0 else max 20 (min 4000 w20.toNat)) ∧
      t.tick.count = (if t.tick.period = s.tick.period then s.tick.count else 0) ∧
      (t.sh.restart = true ↔
        s.sh.restart = true ∨ s.header.adopted = false ∨ t.sh.adopted ≠ s.sh.adopted) ∧
      (t.nh.restart = true ↔ s.nh.restart = true ∨ t.nh.adopted ≠ s.nh.adopted)) ∧
    1 ≤ h.seats ∧ h.seats ≤ 32 ∧ 1 ≤ h.sh.div ∧ h.sh.div ≤ 255 ∧ 1024 ≤ h.sh.len ∧ h.sh.len ≤ 4096 ∧
    1 ≤ h.nh.divider.div ∧ h.nh.divider.div ≤ 255 ∧ need ≤ h.nh.divider.len ∧ h.nh.divider.len ≤ 4096 ∧
    (h.period = 0 ∨ 20 ≤ h.period ∧ h.period ≤ 4000)) ∧
  (∀ (s : State) (edition : Word) (h : HeaderRecord), h.layout = 1 → s.attachmentsOk → s.tailOk →
    let t := s.takeHeader edition h
    let leaves (k : SeatNo) := h.seats ≤ k.val ∧ k.val < s.header.seats
    let old (k : SeatNo) := s.seats[k].adopted
    t = { s with header := t.header, seats := t.seats, streams := t.streams, pool := t.pool, slotMap := t.slotMap
                 io := t.io, sh := { s.sh with adopted := t.sh.adopted, restart := t.sh.restart }
                 nh := { s.nh with adopted := t.nh.adopted, restart := t.nh.restart }
                 tick := { s.tick with period := t.tick.period, count := t.tick.count } } ∧
    (∀ k : SeatNo, leaves k → t.seats[k] = { s.seats[k] with
      edition := none, blocks := [], waiting := false
      adopted := { old k with
        routing := { (old k).routing with mode := .idle }, attachedTo := none, supervisors := [] }
      due := { s.seats[k].due with
        clearKeyMute := true
        reminder := if (old k).routing.mode = .hold then some false else s.seats[k].due.reminder }
      prompt := { s.seats[k].prompt with
        order := s.seats[k].prompt.order.map fun q => { q with mark := some (q.mark.getD .abandoned) } } }) ∧
    (∀ k : SeatNo, ¬ leaves k → t.seats[k] = { s.seats[k] with adopted := { old k with
      attachedTo := t.seats[k].adopted.attachedTo, supervisors := t.seats[k].adopted.supervisors } }) ∧
    t.attachmentsOk ∧ t.tailOk ∧ (s.poolOk → t.poolOk) ∧ (s.slotsOk → t.slotsOk) ∧ (s.listenersOk → t.listenersOk) ∧
    (∀ n : SlotNo, t.slotMap[n] = match s.slotMap[n] with
      | some k => if leaves k ∧ (old k).routing.mode.holdsSlot = true then none else some k
      | none => none) ∧
    (∀ j : StreamNo, t.streams[j] =
      leaveStream^[(List.finRange 32).countP fun k => decide (leaves k) && (old k).listensTo j] s.streams[j]) ∧
    t.io = handAll s.env ((List.finRange 32).flatMap fun k =>
      if leaves k ∧ (old k).routing.mode.holdsSlot = true then
        ((old k).supervisors.filter fun a => decide (¬ (leaves a.seat ∧ a.seat < k))).map fun a =>
          (⟨.supervisorDetached, .seat a.seat, BitVec.ofNat 32 k.val, 1, 0⟩ : NoticeOut)
      else []) s.io) ∧
  ∀ s : State, s.io.turns = [] →
    let word (a : Nat) := readMemWord (s.area.toNat + a) s.io.mem
    let changed (a : Nat) (held : Option Word) := if held = some (word a) then none else some (word a)
    let t := s.scanHeader
    (changed 4 s.header.edition = none → t = s) ∧
    (changed 4 s.header.edition ≠ none → t = s.takeHeader (word 4) (parseHeader
      [word 0, word 8, word 0x0C, word 0x10, word 0x14, word 0x18, word 0x1C, word 0x20])) ∧
    let places := (List.finRange 32).filter fun k => decide (k.val < t.header.serving ∧ k.val < t.header.seats)
    (t.header.layoutBad = true → s.adoptionScan = places.foldl State.retryTail t) ∧
    (t.header.layoutBad = false → s.adoptionScan =
      ((List.finRange 16).map fun j => (j, changed (0x400 + 32 * j.val) t.streams[j].edition)).foldl streamPlace
        ((places.map fun k => (k, changed (0x1000 + 128 * k.val) t.seats[k].edition)).foldl seatPlace t))

/-! ## Streams and prompts -/

/-- The fetch of a stream and its write-backs (5.2 to 5.4).  A DISABLED or WAITING stream makes none.  A RUNNING one
makes a start when it has no position and, with one, consumes 80 source samples, or 40 when NARROW, each twice; a failed
sample read makes the buffer silence.  Consuming moves the one-shot position and its write-back, in the order first
consumed, or the loop cursor; a failed read passes over its sample.  A read finds a segment bad, empty, one-shot or
looping by its count, and an owed or ended one not playable, unread; when a word fails it is not playable, its bad-seen
mark stands, and READ_FAILED is handed once a fetch, with the first failed address (both words are read, the count
first: assumption 30).  At the end of a one-shot segment SEGMENT_DONE is posted and the other is entered, or the stream
starves with STARVED; at the end of a pass the other is entered with SEGMENT_LEFT, or the loop starts again.  A start
enters A before B; with neither it starves, or, when a count word failed (assumption 14), leaves the stream RUNNING.  A
STARVED fetch counts, or makes the stream RUNNING.  Retries of owed writes come first, A's before B's (assumption 29).
A write-back puts the address and then the count in memory and nothing else; a word that the window refuses or that
fails on the bus is left, with its notice and its address, and the other stands (assumption 13); a final one not made
whole is owed until a retry makes it. -/
def Obligations.StreamFetch : Prop :=
  (∀ (e : Env) (j : StreamNo) (st : Stream) (io : Io), st.state = .disabled ∨ st.state = .waiting →
    fetchStream e j st io = ({ st with buffer := silence, playing := false, backs := [] }, io)) ∧
  (∀ (e : Env) (j : StreamNo) (st : Stream) (io : Io) (g : Segment) (n : Nat) (a : Word), st.state = .running →
    io.turns = [] → st.position = some (.oneShot g n a) →
    let m := if st.narrow = true then 40 else 80
    m < n →
    fetchStream e j st io =
      ({ st with position := some (.oneShot g (n - m) (a + BitVec.ofNat 32 (2 * m)))
                 buffer := (List.range 80).map fun i => (readMemHalf
                   (a + BitVec.ofNat 32 (2 * if st.narrow = true then i / 2 else i)).toNat io.mem).toInt
                 playing := true
                 backs := [⟨g, a + BitVec.ofNat 32 (2 * m), n - m⟩] }, io)) ∧
  (∀ (e : Env) (j : StreamNo) (st : Stream) (io : Io) (g : Segment) (start : Word) (len cur : Nat),
    st.state = .running → io.turns = [] → st.position = some (.loop g start len cur) →
    let m := if st.narrow = true then 40 else 80
    cur + m < len →
    fetchStream e j st io =
      ({ st with position := some (.loop g start len (cur + m))
                 buffer := (List.range 80).map fun i => (readMemHalf
                   (start + BitVec.ofNat 32 (2 * (cur + if st.narrow = true then i / 2 else i))).toNat io.mem).toInt
                 playing := true
                 backs := [] }, io)) ∧
  (∀ (e : Env) (j : StreamNo) (g : Segment) (f : Fetch), f.io.turns = [] →
    let count := readMemWord (countAt e.area j g) f.io.mem
    let address := readMemWord (addressAt e.area j g) f.io.mem
    let clear := { f with stream := f.stream.setBad g false }
    ((f.stream.owed g).isSome = true ∨ g ∈ f.ended → readSegment e j g f = (.unplayable false, f)) ∧
    (f.stream.owed g = none → g ∉ f.ended →
      (count = 0 → readSegment e j g f = (.unplayable false, clear)) ∧
      (playableCount count → readSegment e j g f = (.playable (positionAt g count address), clear)) ∧
      (count ≠ 0 → ¬ playableCount count → f.stream.bad g = true → readSegment e j g f = (.unplayable false, f)) ∧
      (count ≠ 0 → ¬ playableCount count → f.stream.bad g = false → readSegment e j g f =
        (.unplayable false, { f with
          stream := f.stream.setBad g true
          io := hand e .badSegment (.stream j) (BitVec.ofNat 32 g.encode) count 0 f.io })))) ∧
  (∀ (e : Env) (j : StreamNo) (st : Stream) (io : Io), st.state = .running →
    let f : Fetch := ⟨{ st with buffer := silence, playing := false, backs := [] }, io, false, false, [], []⟩
    let from' := if st.position = none then startFetch e j f else f
    let done := (consume e j)^[if st.narrow = true then 40 else 80] from'
    fetchStream e j st io = if from'.stream.position = none then (from'.stream, from'.io) else
      ({ done.stream with
          playing := true
          buffer := if done.silent = true then silence else (List.range 80).map fun i =>
            done.out.reverse.getD (if st.narrow = true then i / 2 else i) 0 }, done.io)) ∧
  (∀ (e : Env) (j : StreamNo) (f : Fetch), f.io.turns = [] ∨ (∃ ts, f.io.turns = ⟨[], true⟩ :: ts) →
    let rest : Io := { f.io with turns := f.io.turns.tail }
    let read (g : Segment) (a : Nat) : Fetch := if f.io.turns = [] then
        { f with out := (readMemHalf a f.io.mem).toInt :: f.out }
      else { f with
        out := 0 :: f.out, silent := true, failed := true
        io := if f.failed = true then rest
          else hand e .readFailed (.stream j) (BitVec.ofNat 32 a) (BitVec.ofNat 32 g.encode) 0 rest }
    (f.stream.position = none → consume e j f = { f with out := 0 :: f.out }) ∧
    (∀ (g : Segment) (n : Nat) (a : Word), 1 ≤ n → f.stream.position = some (.oneShot g n a) →
      let q (backs : List WriteBack) := { read g a.toNat with
        stream := { f.stream with position := some (.oneShot g (n - 1) (a + 2)), backs := backs } }
      let next (backs : List WriteBack) := if n = 1 then endOneShot e j g (q backs) else q backs
      ((∀ b ∈ f.stream.backs, b.segment ≠ g) →
        consume e j f = next (f.stream.backs ++ [⟨g, a + 2, n - 1⟩])) ∧
      ∀ (xs : List WriteBack) (b : WriteBack) (ys : List WriteBack), f.stream.backs = xs ++ b :: ys →
        (∀ c ∈ xs, c.segment ≠ g) → b.segment = g → consume e j f = next (xs ++ ⟨g, a + 2, n - 1⟩ :: ys)) ∧
    ∀ (g : Segment) (start : Word) (len cur : Nat), cur < len → f.stream.position = some (.loop g start len cur) →
      let q := read g (start + BitVec.ofNat 32 (2 * cur)).toNat
      consume e j f = if cur + 1 = len then endPass e j g start len q
        else { q with stream := { f.stream with position := some (.loop g start len (cur + 1)) } }) ∧
  (∀ (e : Env) (j : StreamNo) (g : Segment) (f : Fetch) (x y : Bool) (ts : List BusTurn), x = true ∨ y = true →
    f.io.turns = ⟨[], x⟩ :: ⟨[], y⟩ :: ts ∨ f.io.turns = [⟨[], x⟩] ∧ y = false ∧ ts = [] →
    f.stream.owed g = none → g ∉ f.ended →
    let at' := if x = true then countAt e.area j g else addressAt e.area j g
    let rest : Io := { f.io with turns := ts }
    readSegment e j g f = (.unplayable x, { f with
      failed := true
      io := if f.failed = true then rest
        else hand e .readFailed (.stream j) (BitVec.ofNat 32 at') (BitVec.ofNat 32 g.encode) 0 rest })) ∧
  (∀ (e : Env) (j : StreamNo) (g : Segment) (f : Fetch) (start : Word) (len : Nat),
    let posted := { f with
      ended := g :: f.ended, io := hand e .segmentDone (.stream j) (BitVec.ofNat 32 g.encode) 0 0 f.io }
    let r := readSegment e j g.other posted
    let p := readSegment e j g.other f
    (∀ into, r.1 = .playable into →
      endOneShot e j g f = { r.2 with stream := { r.2.stream with position := some into } }) ∧
    (∀ x, r.1 = .unplayable x → endOneShot e j g f = { r.2 with
      stream := { r.2.stream with position := none, state := .starved }
      io := hand e .starved (.stream j) (BitVec.ofNat 32 g.encode) 0 0 r.2.io }) ∧
    (∀ into, p.1 = .playable into → endPass e j g start len f = { p.2 with
      stream := { p.2.stream with position := some into }
      io := hand e .segmentLeft (.stream j) (BitVec.ofNat 32 g.encode) 0 0 p.2.io }) ∧
    ∀ x, p.1 = .unplayable x →
      endPass e j g start len f = { p.2 with stream := { p.2.stream with position := some (.loop g start len 0) } }) ∧
  (∀ (e : Env) (j : StreamNo) (f : Fetch),
    let a := readSegment e j .a f
    let b := readSegment e j .b a.2
    let at' (into : Position) : Fetch := { b.2 with stream := { b.2.stream with position := some into } }
    (∀ into, a.1 = .playable into → startFetch e j f = at' into) ∧
    ∀ x, a.1 = .unplayable x →
      (∀ into, b.1 = .playable into → startFetch e j f = at' into) ∧
      ∀ y, b.1 = .unplayable y → startFetch e j f =
        if x = true ∨ y = true then b.2 else { b.2 with
          stream := { b.2.stream with state := .starved, framesStarved := countUp b.2.stream.framesStarved }
          io := hand e .starved (.stream j) 0 0 0 b.2.io }) ∧
  (∀ (e : Env) (j : StreamNo) (st : Stream) (io : Io), st.state = .starved →
    let f : Fetch := ⟨{ st with buffer := silence, playing := false, backs := [] }, io, false, false, [], []⟩
    let a := readSegment e j .a f
    let b := readSegment e j .b a.2
    let none' := (∃ x, a.1 = .unplayable x) ∧ ∃ y, b.1 = .unplayable y
    (none' → fetchStream e j st io =
      ({ b.2.stream with framesStarved := countUp b.2.stream.framesStarved }, b.2.io)) ∧
    (¬ none' → fetchStream e j st io = ({ b.2.stream with state := .running, position := none }, b.2.io))) ∧
  (∀ (e : Env) (j : StreamNo) (g : Segment) (f : Fetch) (start : Word) (len : Nat), f.io.turns = [] →
    f.stream.owed g.other = none → g.other ∉ f.ended →
    let count := readMemWord (countAt e.area j g.other) f.io.mem
    let address := readMemWord (addressAt e.area j g.other) f.io.mem
    let done := hand e .segmentDone (.stream j) (BitVec.ofNat 32 g.encode) 0 0 f.io
    let st := f.stream.setBad g.other false
    (playableCount count →
      endOneShot e j g f = { f with
        ended := g :: f.ended, io := done, stream := { st with position := some (positionAt g.other count address) } } ∧
      endPass e j g start len f = { f with
        io := hand e .segmentLeft (.stream j) (BitVec.ofNat 32 g.encode) 0 0 f.io
        stream := { st with position := some (positionAt g.other count address) } }) ∧
    (count = 0 →
      endOneShot e j g f = { f with
        ended := g :: f.ended, io := hand e .starved (.stream j) (BitVec.ofNat 32 g.encode) 0 0 done
        stream := { st with position := none, state := .starved } } ∧
      endPass e j g start len f = { f with stream := { st with position := some (.loop g start len 0) } })) ∧
  (∀ (e : Env) (j : StreamNo) (f : Fetch), f.io.turns = [] → f.stream.position = none → f.stream.owedA = none →
    f.stream.owedB = none → f.ended = [] →
    let count (g : Segment) := readMemWord (countAt e.area j g) f.io.mem
    let address (g : Segment) := readMemWord (addressAt e.area j g) f.io.mem
    let st := { f.stream with badA := false, badB := false }
    (playableCount (count .a) → playableCount (count .b) ∨ count .b = 0 → startFetch e j f =
      { f with stream := { st with position := some (positionAt .a (count .a) (address .a)) } }) ∧
    (count .a = 0 → playableCount (count .b) → startFetch e j f =
      { f with stream := { st with position := some (positionAt .b (count .b) (address .b)) } }) ∧
    (count .a = 0 → count .b = 0 → startFetch e j f = { f with
      stream := { st with state := .starved, framesStarved := countUp f.stream.framesStarved }
      io := hand e .starved (.stream j) 0 0 0 f.io })) ∧
  (∀ (e : Env) (j : StreamNo) (st : Stream) (io : Io), st.state = .starved → io.turns = [] → st.owedA = none →
    st.owedB = none →
    let count (g : Segment) := readMemWord (countAt e.area j g) io.mem
    let q := { st with buffer := silence, playing := false, backs := [], badA := false, badB := false }
    (count .a = 0 → count .b = 0 → fetchStream e j st io =
      ({ q with framesStarved := countUp st.framesStarved }, io)) ∧
    (playableCount (count .a) ∨ count .a = 0 → playableCount (count .b) ∨ count .b = 0 →
      playableCount (count .a) ∨ playableCount (count .b) → fetchStream e j st io =
        ({ q with state := .running, position := none }, io))) ∧
  (∀ (e : Env) (j : StreamNo) (st : Stream) (io : Io),
    let tried := retryOwed e j (retryOwed e j (st, io) .a) .b
    let made := st.backs.foldl (writeBackOne e j) tried
    writeBacks e j st io = ({ made.1 with backs := [] }, made.2)) ∧
  ∀ (e : Env) (j : StreamNo) (st : Stream) (io : Io) (b : WriteBack), memoryWf io.mem = true →
    let at' := addressAt e.area j b.segment
    let count := countAt e.area j b.segment
    let inside (a : Nat) := e.lo ≤ a ∧ a + 4 ≤ e.hi
    let posted (c : Code) (a : Nat) : NoticeOut := ⟨c, .stream j, BitVec.ofNat 32 a, 0, 0⟩
    let leaves (x y : Prop) (ns : List NoticeOut) (address : Word) (left : Nat) (t : Io) :=
      t = { handAll e ns io with turns := [], mem := t.mem } ∧ (x → readMemWord at' t.mem = address) ∧
      (y → readMemWord count t.mem = BitVec.ofNat 32 left) ∧
      ∀ a, ¬ (x ∧ at' ≤ a ∧ a < at' + 4) → ¬ (y ∧ count ≤ a ∧ a < count + 4) → readByte a t.mem = readByte a io.mem
    let settles (x y : Prop) (ns : List NoticeOut) :=
      let r := writeBackOne e j (st, io) b
      leaves x y ns b.address b.remaining r.2 ∧ (x → y → r.1 = st) ∧
      (¬ (x ∧ y) → r.1 = if b.remaining = 0 then st.setOwed b.segment (some b.address) else st) ∧
      ∀ o, st.owed b.segment = some o →
        let again := retryOwed e j (st, io) b.segment
        leaves x y ns o 0 again.2 ∧ (x → y → again.1 = st.setOwed b.segment none) ∧ (¬ (x ∧ y) → again.1 = st)
    (io.turns = [] → settles (inside at') (inside count)
      (if ¬ inside at' then [posted .windowRefused at'] else if ¬ inside count then [posted .windowRefused count]
        else [])) ∧
    ∀ x y : Bool, io.turns = [⟨[], x⟩, ⟨[], y⟩] → inside at' → inside count → settles (x = false) (y = false)
      ((if x = true then [posted .writeFailed at'] else []) ++ if y = true then [posted .writeFailed count] else [])

/-- The Prompt Unit for one seat (4.7, Chapter 6).  A due cell that is held makes no access and shows PAUSED; playing,
its cursor moves on by the buffer just played, and after the last buffer it has ended as PLAYED, else the next is
fetched.  A buffer is the source samples from the cursor, each twice when NARROW, then zeros; it is the last when not
full (a full one never is: assumption 16).  A first cell not prepared is prepared from its clip and tag words and its
clip entry, FAILED for an index above 63, a length of 0 or above 16,777,215, or an access that fails, which READ_FAILED
names and after which no word is read (assumption 35); one prepared before a stop fetches again.  A marked cell that has
not started is left (assumption 36).  The scan leaves a cell that owes its write or fails to be read, takes a POSTED
one, finds a PLAYING or PAUSED one stale, and marks one that does not read its expected state WITHDRAWN, a first mark
standing.  At a frame's end a stale cell is ABANDONED, a marked one has its mark's result, also when the frame ended it
(assumption 17), an ended first cell its end, a started one shows PLAYING or PAUSED.  A write puts samples played and
then the state word; with a word refused it is not made, though the other stands (assumption 13).  A live one made is
the new expected state, a final one not made is owed; PLAYED and FAILED hand PROMPT_DONE either way.  Retries come
first.  What is finished leaves the order; a new first cell is not prepared. -/
def Obligations.PromptPlaysOrWaits : Prop :=
  (∀ (e : Env) (k : SeatNo) (p : PromptUnit) (io : Io), p.due = true →
    promptFrame e k false p io =
      { ended := none, showing := some .paused, unit := { p with stage := .started }, io := io }) ∧
  (∀ (e : Env) (k : SeatNo) (p : PromptUnit) (io : Io) (x : Clip) (q : Cue) (rest : List Cue),
    p.order = q :: rest → p.due = true → p.clip = some x →
    let c := { x with cursor := x.cursor + p.filled }
    let played := { p with stage := .started, clip := some c }
    let r := fetchClip e k q.cell c played io
    (promptFrame e k true p io).unit.heard = x.cursor + p.filled ∧
    (p.last = true → promptFrame e k true p io =
      { ended := some .played, showing := none, unit := played, io := io }) ∧
    (p.last = false → promptFrame e k true p io =
      { ended := if r.failed = true then some .failed else none
        showing := if r.failed = true then none else some .playing, unit := r.unit, io := r.io })) ∧
  (∀ (e : Env) (k : SeatNo) (cell : CellNo) (c : Clip) (p : PromptUnit) (io : Io),
    let full := if c.narrow = true then 40 else 80
    let n := min full (c.length - c.cursor)
    let at' (m : Nat) : Nat := (c.address + BitVec.ofNat 32 (2 * (c.cursor + m))).toNat
    (io.turns = [] → fetchClip e k cell c p io =
      { failed := false, io := io
        unit := { p with
          buffer := (List.range 80).map fun i =>
            let m := if c.narrow = true then i / 2 else i
            if m < n then (readMemHalf (at' m) io.mem).toInt else 0
          filled := n, last := decide (n < full) } }) ∧
    ∀ m, m < n → io.turns = List.replicate m ⟨[], false⟩ ++ [⟨[], true⟩] → fetchClip e k cell c p io =
      { failed := true, unit := p
        io := hand e .readFailed (.seat k) (BitVec.ofNat 32 (at' m)) (BitVec.ofNat 32 cell.val) 0
          { io with turns := [] } }) ∧
  (∀ (e : Env) (k : SeatNo) (plays : Bool) (p : PromptUnit) (io : Io),
    (p.order = [] → promptFrame e k plays p io = { ended := none, showing := none, unit := p, io := io }) ∧
    ∀ (q : Cue) (rest : List Cue), p.order = q :: rest →
      let cell := cellAt e.area k q.cell
      let word (a : Nat) := readMemWord a io.mem
      let index := (word (cell + 4)).toNat
      let entry := clipAt e.area index
      let length := (word (entry + 4)).toNat
      let kept := { p with tag := word (cell + 8), clip := none }
      let c : Clip := ⟨word entry &&& 0xFFFFFFFE#32, length, decide (word (entry + 8) = 1), 0⟩
      (q.mark ≠ none → p.stage ≠ .started →
        promptFrame e k plays p io = { ended := none, showing := none, unit := p, io := io }) ∧
      (q.mark = none → p.stage = .fresh → io.turns = [] →
        (63 < index ∨ length = 0 ∨ 16777215 < length →
          promptFrame e k plays p io = { ended := some .failed, showing := none, unit := kept, io := io }) ∧
        (index ≤ 63 → 1 ≤ length → length ≤ 16777215 → promptFrame e k plays p io =
          { ended := none, showing := none, io := io
            unit := (fetchClip e k q.cell c { kept with clip := some c, stage := .ready } io).unit })) ∧
      (∀ (m a : Nat), q.mark = none → p.stage = .fresh →
        io.turns = List.replicate m ⟨[], false⟩ ++ [⟨[], true⟩] →
        m = 0 ∧ a = cell + 4 ∨ m = 1 ∧ a = cell + 8 ∨ 2 ≤ m ∧ m ≤ 4 ∧ index ≤ 63 ∧ a = entry + 4 * (m - 2) →
        promptFrame e k plays p io =
          { ended := some .failed, showing := none
            unit := { p with tag := if m < 2 then 0 else word (cell + 8), clip := none }
            io := hand e .readFailed (.seat k) (BitVec.ofNat 32 a) (BitVec.ofNat 32 q.cell.val) 0
              { io with turns := [] } }) ∧
      ∀ x : Clip, q.mark = none → p.stage = .again → p.clip = some x →
        let r := fetchClip e k q.cell x { p with stage := .ready } io
        promptFrame e k plays p io =
          { ended := if r.failed = true then some .failed else none, showing := none, unit := r.unit, io := r.io }) ∧
  (∀ w : Word, let n := (w.extractLsb' 0 8).toNat
    (decodeCell w).encode = if n ≤ 4 then n else 0) ∧
  (∀ (e : Env) (k : SeatNo) (p : PromptUnit) (io : Io) (c : CellNo),
    let found := decodeCell (readMemWord (cellAt e.area k c) io.mem)
    scanCells e k p io = [0, 1, 2, 3].foldl (scanCell e k) (p, io) ∧
    ((∃ o ∈ p.owed, o.cell = c) → scanCell e k (p, io) c = (p, io)) ∧
    ((∀ o ∈ p.owed, o.cell ≠ c) → io.turns = [⟨[], true⟩] → scanCell e k (p, io) c =
      (p, hand e .readFailed (.seat k) (BitVec.ofNat 32 (cellAt e.area k c)) (BitVec.ofNat 32 c.val) 0
        { io with turns := [] })) ∧
    ((∀ o ∈ p.owed, o.cell ≠ c) → io.turns = [] →
      ((∀ q ∈ p.order, q.cell ≠ c) → scanCell e k (p, io) c =
        (if found = .posted then { p with order := p.order ++ [⟨c, .posted, none⟩] }
         else if found = .playing ∨ found = .paused then { p with stale := p.stale ++ [c] } else p, io)) ∧
      ∀ q ∈ p.order, q.cell = c → (p.order.map Cue.cell).Nodup → scanCell e k (p, io) c =
        (if found = q.expected then p
         else { p with order := p.order.map fun r =>
                  if r.cell = c then { r with mark := some (r.mark.getD .withdrawn) } else r }, io))) ∧
  (∀ (f : PromptFrame) (c : CellNo), (f.unit.order.map Cue.cell).Nodup →
    (c ∈ f.unit.stale → writeOf f c = some ⟨c, none, .finished .abandoned⟩) ∧
    (c ∉ f.unit.stale → (∀ q ∈ f.unit.order, q.cell ≠ c) → writeOf f c = none) ∧
    ∀ q ∈ f.unit.order, q.cell = c → c ∉ f.unit.stale →
      let heard := some (if f.unit.order.head? = some q then f.unit.heard else 0)
      (∀ r, q.mark = some r → writeOf f c = some ⟨c, heard, .finished r⟩) ∧
      (q.mark = none → f.unit.order.head? = some q →
        (∀ r, f.ended = some r → writeOf f c = some ⟨c, heard, .finished r⟩) ∧
        (f.ended = none → writeOf f c = f.showing.map fun s => ⟨c, heard, .live s⟩)) ∧
      (q.mark = none → f.unit.order.head? ≠ some q → writeOf f c = none)) ∧
  (∀ (e : Env) (k : SeatNo) (p : PromptUnit) (io : Io) (w : CellWrite) (o : OwedCell),
    memoryWf io.mem = true → io.turns = [] →
    let r := makeWrite e k (p, io) w
    let again := retryCell e k (p, io) o
    let inside (a : Nat) := e.lo ≤ a ∧ a + 4 ≤ e.hi
    let fits (c : CellNo) (samples : Option Nat) := inside (cellAt e.area k c) ∧
      (samples ≠ none → inside (cellAt e.area k c + 12))
    let stands (c : CellNo) (samples : Option Nat) (state : Nat) (m : List Host.Cell) :=
      let at' := cellAt e.area k c
      (inside at' → readMemWord at' m = BitVec.ofNat 32 state) ∧
      (∀ n, samples = some n → inside (at' + 12) → readMemWord (at' + 12) m = BitVec.ofNat 32 n) ∧
      ∀ a, ¬ (inside at' ∧ at' ≤ a ∧ a < at' + 4) →
        ¬ (samples ≠ none ∧ inside (at' + 12) ∧ at' + 12 ≤ a ∧ a < at' + 16) → readByte a m = readByte a io.mem
    let final := w.outcome = .finished .played ∨ w.outcome = .finished .failed
    ((r.2.promptClass = if final then
        (hand e .promptDone (.seat k) (BitVec.ofNat 32 w.cell.val) p.tag 0 io).promptClass else io.promptClass)) ∧
    (∀ s, w.outcome = .live s → r.1 = if fits w.cell w.samples then
        { p with order := p.order.map fun q => if q.cell = w.cell then { q with expected := s } else q } else p) ∧
    (∀ res, w.outcome = .finished res → r.1 = if fits w.cell w.samples then p
        else { p with owed := p.owed ++ [⟨w.cell, res, w.samples⟩] }) ∧
    again.1 = (if fits o.cell o.samples then p else { p with owed := p.owed ++ [o] }) ∧
    (∀ s, w.outcome = .live s → stands w.cell w.samples s.encode r.2.mem) ∧
    (∀ res, w.outcome = .finished res → stands w.cell w.samples (4 + 256 * res.encode) r.2.mem) ∧
    stands o.cell o.samples (4 + 256 * o.result.encode) again.2.mem) ∧
  ∀ (e : Env) (k : SeatNo) (f : PromptFrame),
    let gone (c : CellNo) := ∃ w, writeOf f c = some w ∧ ∃ r, w.outcome = .finished r
    let retried := (([0, 1, 2, 3] : List CellNo).flatMap fun c =>
      f.unit.owed.filter fun o => decide (o.cell = c)).foldl (retryCell e k) ({ f.unit with owed := [] }, f.io)
    let x := ([0, 1, 2, 3].filterMap (writeOf f)).foldl (makeWrite e k) retried
    let u := (endCells e k f).1
    let first := f.unit.order.head?.map Cue.cell
    (endCells e k f).2 = x.2 ∧ u.owed = x.1.owed ∧ u.order.Sublist x.1.order ∧
    (∀ q, q ∈ u.order ↔ q ∈ x.1.order ∧ ¬ gone q.cell) ∧
    x.1.order.map Cue.cell = f.unit.order.map Cue.cell ∧
    (∀ c, first = some c → gone c →
      u = { f.unit with order := u.order, owed := u.owed, stale := [], stage := .fresh, clip := none
                        buffer := silence, filled := 0, last := false }) ∧
    ((∀ c, first = some c → ¬ gone c) → u = { f.unit with order := u.order, owed := u.owed, stale := [] })

/-! ## Notices -/

/-- Folding (11.2): a notice whose source and code wait already keeps that entry's place with the new frame and details
and its merged count raised by 1, stopping at its top; any other is appended with merged count 0. -/
def Obligations.NoticesFold : Prop :=
  ∀ (n : Notice) (xs ys : List Notice) (x : Notice), (∀ y ∈ xs, n.sameEvent y = false) →
    foldNotice n xs = xs ++ [{ n with merged := 0 }] ∧
    (n.sameEvent x = true → x.merged < 4294967295 →
      foldNotice n (xs ++ x :: ys) = xs ++ { n with merged := x.merged + 1 } :: ys) ∧
    (n.sameEvent x = true → x.merged = 4294967295 →
      foldNotice n (xs ++ x :: ys) = xs ++ { n with merged := 4294967295 } :: ys)

/-- Serving (11.3): an unposted class with an entry waiting, its slot within the window and no bus error coming, takes
its head entry and writes it into its slot, the held word with value 1, and shows it; a posted class and one with no entry
are left alone.  The words are written in the order of their offsets (assumption 31), the held word last: when the word in
some place of that order is refused or fails on the bus, the words before it stand in the slot and nothing else of memory
has changed, the entry is dropped and the class stays unposted; a refusal sets WINDOW_FAULT, and a bus error hands
WRITE_FAILED after the serving, but for the FAULT class's own slot. -/
def Obligations.ServedSlotHoldsNotice : Prop :=
  (∀ (e : Env) (io : Io) (x : NoticeClass) (n : Notice) (rest : List Notice),
    (io.posted x = true ∨ (io.cls x).waiting = [] → serveClass e { io := io, later := [] } x =
      { io := io, later := [] }) ∧
    (io.posted x = false → (io.cls x).waiting = n :: rest → io.turns = [] → memoryWf io.mem = true →
      e.lo ≤ slotAt e.area x → slotAt e.area x + 32 ≤ e.hi →
      let t := (serveClass e { io := io, later := [] } x).io
      t.cls x = { waiting := rest, shown := some n } ∧ t.windowFault = io.windowFault ∧
      readMemWord (slotAt e.area x) t.mem = 1 ∧
      readMemWord (slotAt e.area x + 4) t.mem = BitVec.ofNat 32 n.code.number ∧
      readMemWord (slotAt e.area x + 8) t.mem = n.source.word ∧
      readMemWord (slotAt e.area x + 12) t.mem = n.frame ∧
      readMemWord (slotAt e.area x + 16) t.mem = BitVec.ofNat 32 n.merged ∧
      readMemWord (slotAt e.area x + 20) t.mem = n.detail0 ∧
      readMemWord (slotAt e.area x + 24) t.mem = n.detail1 ∧
      readMemWord (slotAt e.area x + 28) t.mem = n.detail2 ∧
      ∀ a, a < slotAt e.area x ∨ slotAt e.area x + 32 ≤ a → readByte a t.mem = readByte a io.mem)) ∧
  ∀ (e : Env) (io : Io) (x : NoticeClass) (n : Notice) (rest : List Notice) (i : Nat), io.posted x = false →
    (io.cls x).waiting = n :: rest → memoryWf io.mem = true → i < 8 →
    let place (m : Nat) : Nat := slotAt e.area x + (4 * m + 4) % 32
    let word (m : Nat) : Word := [BitVec.ofNat 32 n.code.number, n.source.word, n.frame, BitVec.ofNat 32 n.merged,
      n.detail0, n.detail1, n.detail2].getD m 1
    let r := serveClass e { io := io, later := [] } x
    (∀ m, m < i → e.lo ≤ place m ∧ place m + 4 ≤ e.hi) →
    let dropped := r.io.cls x = { waiting := rest, shown := none } ∧
      (∀ m, m < i → readMemWord (place m) r.io.mem = word m) ∧
      ∀ a, (∀ m, m < i → a < place m ∨ place m + 4 ≤ a) → readByte a r.io.mem = readByte a io.mem
    (io.turns = [] → place i < e.lo ∨ e.hi < place i + 4 →
      dropped ∧ r.io.windowFault = true ∧ r.later = []) ∧
    (io.turns = List.replicate i { writes := [], error := false } ++ [{ writes := [], error := true }] →
      e.lo ≤ place i → place i + 4 ≤ e.hi →
      dropped ∧ r.io.windowFault = io.windowFault ∧ r.later = if x = .fault then [] else
        [⟨.writeFailed, .noticeUnit, BitVec.ofNat 32 (place i), BitVec.ofNat 32 x.number, 0⟩])

/-- The held read (11.3): of a posted class with no bus error coming, a held word of 0 takes the notice back, and any
other leaves the class as it was; the pending list stands either way.  One that ends in a bus error leaves the class
posted and hands READ_FAILED with the address and the class number.  The held word of a class that is not posted is not
read. -/
def Obligations.HeldReadTakesBack : Prop :=
  ∀ (e : Env) (io : Io) (x : NoticeClass),
    (io.turns = [] → io.posted x = true → heldRead e io x =
      if readMemWord (slotAt e.area x) io.mem = 0 then io.setCls x { waiting := (io.cls x).waiting, shown := none }
      else io) ∧
    (∀ ts, io.turns = ⟨[], true⟩ :: ts → io.posted x = true → heldRead e io x =
      hand e .readFailed .noticeUnit (BitVec.ofNat 32 (slotAt e.area x)) (BitVec.ofNat 32 x.number) 0
        { io with turns := ts }) ∧
    (io.posted x = false → heldRead e io x = io)
end

