-- ==== Sys2Proof/Laws/State.lean ====
section
/-! SUPPORT. What each update of the state does to each of its fields, true by `rfl`: no later proof unfolds a record
update. -/

namespace Sys2Proof.Laws

open Sys2Proof.Machine

/-! ## One seat replaced -/

@[simp] theorem modSeat_pending (s : State) (k : SeatNo) (f : Seat → Seat) :
    (s.modSeat k f).pending = s.pending := rfl
@[simp] theorem modSeat_regs (s : State) (k : SeatNo) (f : Seat → Seat) : (s.modSeat k f).regs = s.regs := rfl
@[simp] theorem modSeat_frame (s : State) (k : SeatNo) (f : Seat → Seat) : (s.modSeat k f).frame = s.frame := rfl
@[simp] theorem modSeat_cycle (s : State) (k : SeatNo) (f : Seat → Seat) : (s.modSeat k f).cycle = s.cycle := rfl
@[simp] theorem modSeat_running (s : State) (k : SeatNo) (f : Seat → Seat) :
    (s.modSeat k f).running = s.running := rfl
@[simp] theorem modSeat_area (s : State) (k : SeatNo) (f : Seat → Seat) : (s.modSeat k f).area = s.area := rfl
@[simp] theorem modSeat_io (s : State) (k : SeatNo) (f : Seat → Seat) : (s.modSeat k f).io = s.io := rfl
@[simp] theorem modSeat_tick (s : State) (k : SeatNo) (f : Seat → Seat) : (s.modSeat k f).tick = s.tick := rfl
@[simp] theorem modSeat_header (s : State) (k : SeatNo) (f : Seat → Seat) :
    (s.modSeat k f).header = s.header := rfl
@[simp] theorem modSeat_sh (s : State) (k : SeatNo) (f : Seat → Seat) : (s.modSeat k f).sh = s.sh := rfl
@[simp] theorem modSeat_nh (s : State) (k : SeatNo) (f : Seat → Seat) : (s.modSeat k f).nh = s.nh := rfl
@[simp] theorem modSeat_seats (s : State) (k : SeatNo) (f : Seat → Seat) :
    (s.modSeat k f).seats = s.seats.set k (f s.seats[k]) := rfl
@[simp] theorem modSeat_streams (s : State) (k : SeatNo) (f : Seat → Seat) :
    (s.modSeat k f).streams = s.streams := rfl
@[simp] theorem modSeat_pool (s : State) (k : SeatNo) (f : Seat → Seat) : (s.modSeat k f).pool = s.pool := rfl
@[simp] theorem modSeat_slotMap (s : State) (k : SeatNo) (f : Seat → Seat) :
    (s.modSeat k f).slotMap = s.slotMap := rfl

/-! ## One stream replaced -/

@[simp] theorem modStream_pending (s : State) (j : StreamNo) (f : Stream → Stream) :
    (s.modStream j f).pending = s.pending := rfl
@[simp] theorem modStream_regs (s : State) (j : StreamNo) (f : Stream → Stream) :
    (s.modStream j f).regs = s.regs := rfl
@[simp] theorem modStream_frame (s : State) (j : StreamNo) (f : Stream → Stream) :
    (s.modStream j f).frame = s.frame := rfl
@[simp] theorem modStream_cycle (s : State) (j : StreamNo) (f : Stream → Stream) :
    (s.modStream j f).cycle = s.cycle := rfl
@[simp] theorem modStream_running (s : State) (j : StreamNo) (f : Stream → Stream) :
    (s.modStream j f).running = s.running := rfl
@[simp] theorem modStream_area (s : State) (j : StreamNo) (f : Stream → Stream) :
    (s.modStream j f).area = s.area := rfl
@[simp] theorem modStream_io (s : State) (j : StreamNo) (f : Stream → Stream) : (s.modStream j f).io = s.io := rfl
@[simp] theorem modStream_tick (s : State) (j : StreamNo) (f : Stream → Stream) :
    (s.modStream j f).tick = s.tick := rfl
@[simp] theorem modStream_header (s : State) (j : StreamNo) (f : Stream → Stream) :
    (s.modStream j f).header = s.header := rfl
@[simp] theorem modStream_sh (s : State) (j : StreamNo) (f : Stream → Stream) : (s.modStream j f).sh = s.sh := rfl
@[simp] theorem modStream_nh (s : State) (j : StreamNo) (f : Stream → Stream) : (s.modStream j f).nh = s.nh := rfl
@[simp] theorem modStream_seats (s : State) (j : StreamNo) (f : Stream → Stream) :
    (s.modStream j f).seats = s.seats := rfl
@[simp] theorem modStream_streams (s : State) (j : StreamNo) (f : Stream → Stream) :
    (s.modStream j f).streams = s.streams.set j (f s.streams[j]) := rfl
@[simp] theorem modStream_pool (s : State) (j : StreamNo) (f : Stream → Stream) :
    (s.modStream j f).pool = s.pool := rfl
@[simp] theorem modStream_slotMap (s : State) (j : StreamNo) (f : Stream → Stream) :
    (s.modStream j f).slotMap = s.slotMap := rfl

/-! ## Every seat replaced -/

@[simp] theorem mapSeats_pending (s : State) (f : Seat → Seat) : (s.mapSeats f).pending = s.pending := rfl
@[simp] theorem mapSeats_regs (s : State) (f : Seat → Seat) : (s.mapSeats f).regs = s.regs := rfl
@[simp] theorem mapSeats_frame (s : State) (f : Seat → Seat) : (s.mapSeats f).frame = s.frame := rfl
@[simp] theorem mapSeats_cycle (s : State) (f : Seat → Seat) : (s.mapSeats f).cycle = s.cycle := rfl
@[simp] theorem mapSeats_running (s : State) (f : Seat → Seat) : (s.mapSeats f).running = s.running := rfl
@[simp] theorem mapSeats_area (s : State) (f : Seat → Seat) : (s.mapSeats f).area = s.area := rfl
@[simp] theorem mapSeats_io (s : State) (f : Seat → Seat) : (s.mapSeats f).io = s.io := rfl
@[simp] theorem mapSeats_tick (s : State) (f : Seat → Seat) : (s.mapSeats f).tick = s.tick := rfl
@[simp] theorem mapSeats_header (s : State) (f : Seat → Seat) : (s.mapSeats f).header = s.header := rfl
@[simp] theorem mapSeats_sh (s : State) (f : Seat → Seat) : (s.mapSeats f).sh = s.sh := rfl
@[simp] theorem mapSeats_nh (s : State) (f : Seat → Seat) : (s.mapSeats f).nh = s.nh := rfl
@[simp] theorem mapSeats_seats (s : State) (f : Seat → Seat) :
    (s.mapSeats f).seats = tabulate fun k => f s.seats[k] := rfl
@[simp] theorem mapSeats_streams (s : State) (f : Seat → Seat) : (s.mapSeats f).streams = s.streams := rfl
@[simp] theorem mapSeats_pool (s : State) (f : Seat → Seat) : (s.mapSeats f).pool = s.pool := rfl
@[simp] theorem mapSeats_slotMap (s : State) (f : Seat → Seat) : (s.mapSeats f).slotMap = s.slotMap := rfl

/-! ## Every stream replaced -/

@[simp] theorem mapStreams_pending (s : State) (f : Stream → Stream) : (s.mapStreams f).pending = s.pending := rfl
@[simp] theorem mapStreams_regs (s : State) (f : Stream → Stream) : (s.mapStreams f).regs = s.regs := rfl
@[simp] theorem mapStreams_frame (s : State) (f : Stream → Stream) : (s.mapStreams f).frame = s.frame := rfl
@[simp] theorem mapStreams_cycle (s : State) (f : Stream → Stream) : (s.mapStreams f).cycle = s.cycle := rfl
@[simp] theorem mapStreams_running (s : State) (f : Stream → Stream) : (s.mapStreams f).running = s.running := rfl
@[simp] theorem mapStreams_area (s : State) (f : Stream → Stream) : (s.mapStreams f).area = s.area := rfl
@[simp] theorem mapStreams_io (s : State) (f : Stream → Stream) : (s.mapStreams f).io = s.io := rfl
@[simp] theorem mapStreams_tick (s : State) (f : Stream → Stream) : (s.mapStreams f).tick = s.tick := rfl
@[simp] theorem mapStreams_header (s : State) (f : Stream → Stream) : (s.mapStreams f).header = s.header := rfl
@[simp] theorem mapStreams_sh (s : State) (f : Stream → Stream) : (s.mapStreams f).sh = s.sh := rfl
@[simp] theorem mapStreams_nh (s : State) (f : Stream → Stream) : (s.mapStreams f).nh = s.nh := rfl
@[simp] theorem mapStreams_seats (s : State) (f : Stream → Stream) : (s.mapStreams f).seats = s.seats := rfl
@[simp] theorem mapStreams_streams (s : State) (f : Stream → Stream) :
    (s.mapStreams f).streams = tabulate fun j => f s.streams[j] := rfl
@[simp] theorem mapStreams_pool (s : State) (f : Stream → Stream) : (s.mapStreams f).pool = s.pool := rfl
@[simp] theorem mapStreams_slotMap (s : State) (f : Stream → Stream) : (s.mapStreams f).slotMap = s.slotMap := rfl

/-! ## The bus side replaced -/

@[simp] theorem setIo_pending (s : State) (io : Io) : (s.setIo io).pending = s.pending := rfl
@[simp] theorem setIo_regs (s : State) (io : Io) : (s.setIo io).regs = s.regs := rfl
@[simp] theorem setIo_frame (s : State) (io : Io) : (s.setIo io).frame = s.frame := rfl
@[simp] theorem setIo_cycle (s : State) (io : Io) : (s.setIo io).cycle = s.cycle := rfl
@[simp] theorem setIo_running (s : State) (io : Io) : (s.setIo io).running = s.running := rfl
@[simp] theorem setIo_area (s : State) (io : Io) : (s.setIo io).area = s.area := rfl
@[simp] theorem setIo_io (s : State) (io : Io) : (s.setIo io).io = io := rfl
@[simp] theorem setIo_tick (s : State) (io : Io) : (s.setIo io).tick = s.tick := rfl
@[simp] theorem setIo_header (s : State) (io : Io) : (s.setIo io).header = s.header := rfl
@[simp] theorem setIo_sh (s : State) (io : Io) : (s.setIo io).sh = s.sh := rfl
@[simp] theorem setIo_nh (s : State) (io : Io) : (s.setIo io).nh = s.nh := rfl
@[simp] theorem setIo_seats (s : State) (io : Io) : (s.setIo io).seats = s.seats := rfl
@[simp] theorem setIo_streams (s : State) (io : Io) : (s.setIo io).streams = s.streams := rfl
@[simp] theorem setIo_pool (s : State) (io : Io) : (s.setIo io).pool = s.pool := rfl
@[simp] theorem setIo_slotMap (s : State) (io : Io) : (s.setIo io).slotMap = s.slotMap := rfl

/-! ## A notice handed -/

@[simp] theorem hand_pending (s : State) (x : Code) (src : Source) (d0 d1 d2 : Word) :
    (s.hand x src d0 d1 d2).pending = s.pending := rfl
@[simp] theorem hand_regs (s : State) (x : Code) (src : Source) (d0 d1 d2 : Word) :
    (s.hand x src d0 d1 d2).regs = s.regs := rfl
@[simp] theorem hand_frame (s : State) (x : Code) (src : Source) (d0 d1 d2 : Word) :
    (s.hand x src d0 d1 d2).frame = s.frame := rfl
@[simp] theorem hand_cycle (s : State) (x : Code) (src : Source) (d0 d1 d2 : Word) :
    (s.hand x src d0 d1 d2).cycle = s.cycle := rfl
@[simp] theorem hand_running (s : State) (x : Code) (src : Source) (d0 d1 d2 : Word) :
    (s.hand x src d0 d1 d2).running = s.running := rfl
@[simp] theorem hand_area (s : State) (x : Code) (src : Source) (d0 d1 d2 : Word) :
    (s.hand x src d0 d1 d2).area = s.area := rfl
@[simp] theorem hand_io (s : State) (x : Code) (src : Source) (d0 d1 d2 : Word) :
    (s.hand x src d0 d1 d2).io = Machine.hand s.env x src d0 d1 d2 s.io := rfl
@[simp] theorem hand_tick (s : State) (x : Code) (src : Source) (d0 d1 d2 : Word) :
    (s.hand x src d0 d1 d2).tick = s.tick := rfl
@[simp] theorem hand_header (s : State) (x : Code) (src : Source) (d0 d1 d2 : Word) :
    (s.hand x src d0 d1 d2).header = s.header := rfl
@[simp] theorem hand_sh (s : State) (x : Code) (src : Source) (d0 d1 d2 : Word) :
    (s.hand x src d0 d1 d2).sh = s.sh := rfl
@[simp] theorem hand_nh (s : State) (x : Code) (src : Source) (d0 d1 d2 : Word) :
    (s.hand x src d0 d1 d2).nh = s.nh := rfl
@[simp] theorem hand_seats (s : State) (x : Code) (src : Source) (d0 d1 d2 : Word) :
    (s.hand x src d0 d1 d2).seats = s.seats := rfl
@[simp] theorem hand_streams (s : State) (x : Code) (src : Source) (d0 d1 d2 : Word) :
    (s.hand x src d0 d1 d2).streams = s.streams := rfl
@[simp] theorem hand_pool (s : State) (x : Code) (src : Source) (d0 d1 d2 : Word) :
    (s.hand x src d0 d1 d2).pool = s.pool := rfl
@[simp] theorem hand_slotMap (s : State) (x : Code) (src : Source) (d0 d1 d2 : Word) :
    (s.hand x src d0 d1 d2).slotMap = s.slotMap := rfl

/-! ## The host's side of a step taken up -/

@[simp] theorem loadTurns_pending (s : State) (ts : List BusTurn) : (s.loadTurns ts).pending = s.pending := rfl
@[simp] theorem loadTurns_regs (s : State) (ts : List BusTurn) : (s.loadTurns ts).regs = s.regs := rfl
@[simp] theorem loadTurns_frame (s : State) (ts : List BusTurn) : (s.loadTurns ts).frame = s.frame := rfl
@[simp] theorem loadTurns_cycle (s : State) (ts : List BusTurn) : (s.loadTurns ts).cycle = s.cycle := rfl
@[simp] theorem loadTurns_running (s : State) (ts : List BusTurn) : (s.loadTurns ts).running = s.running := rfl
@[simp] theorem loadTurns_area (s : State) (ts : List BusTurn) : (s.loadTurns ts).area = s.area := rfl
@[simp] theorem loadTurns_io (s : State) (ts : List BusTurn) :
    (s.loadTurns ts).io = { s.io with turns := ts } := rfl
@[simp] theorem loadTurns_tick (s : State) (ts : List BusTurn) : (s.loadTurns ts).tick = s.tick := rfl
@[simp] theorem loadTurns_header (s : State) (ts : List BusTurn) : (s.loadTurns ts).header = s.header := rfl
@[simp] theorem loadTurns_sh (s : State) (ts : List BusTurn) : (s.loadTurns ts).sh = s.sh := rfl
@[simp] theorem loadTurns_nh (s : State) (ts : List BusTurn) : (s.loadTurns ts).nh = s.nh := rfl
@[simp] theorem loadTurns_seats (s : State) (ts : List BusTurn) : (s.loadTurns ts).seats = s.seats := rfl
@[simp] theorem loadTurns_streams (s : State) (ts : List BusTurn) : (s.loadTurns ts).streams = s.streams := rfl
@[simp] theorem loadTurns_pool (s : State) (ts : List BusTurn) : (s.loadTurns ts).pool = s.pool := rfl
@[simp] theorem loadTurns_slotMap (s : State) (ts : List BusTurn) : (s.loadTurns ts).slotMap = s.slotMap := rfl

/-! ## The end of a step on the bus -/

@[simp] theorem drained_pending (s : State) : (s.drained).pending = s.pending := rfl
@[simp] theorem drained_regs (s : State) : (s.drained).regs = s.regs := rfl
@[simp] theorem drained_frame (s : State) : (s.drained).frame = s.frame := rfl
@[simp] theorem drained_cycle (s : State) : (s.drained).cycle = s.cycle := rfl
@[simp] theorem drained_running (s : State) : (s.drained).running = s.running := rfl
@[simp] theorem drained_area (s : State) : (s.drained).area = s.area := rfl
@[simp] theorem drained_io (s : State) : (s.drained).io = drain s.io := rfl
@[simp] theorem drained_tick (s : State) : (s.drained).tick = s.tick := rfl
@[simp] theorem drained_header (s : State) : (s.drained).header = s.header := rfl
@[simp] theorem drained_sh (s : State) : (s.drained).sh = s.sh := rfl
@[simp] theorem drained_nh (s : State) : (s.drained).nh = s.nh := rfl
@[simp] theorem drained_seats (s : State) : (s.drained).seats = s.seats := rfl
@[simp] theorem drained_streams (s : State) : (s.drained).streams = s.streams := rfl
@[simp] theorem drained_pool (s : State) : (s.drained).pool = s.pool := rfl
@[simp] theorem drained_slotMap (s : State) : (s.drained).slotMap = s.slotMap := rfl

/-! ## The Network Highway Port put back -/

@[simp] theorem setNet_pending (s : State) (r : NetPort × List NoticeOut) : (s.setNet r).pending = s.pending := rfl
@[simp] theorem setNet_regs (s : State) (r : NetPort × List NoticeOut) : (s.setNet r).regs = s.regs := rfl
@[simp] theorem setNet_frame (s : State) (r : NetPort × List NoticeOut) : (s.setNet r).frame = s.frame := rfl
@[simp] theorem setNet_cycle (s : State) (r : NetPort × List NoticeOut) : (s.setNet r).cycle = s.cycle := rfl
@[simp] theorem setNet_running (s : State) (r : NetPort × List NoticeOut) : (s.setNet r).running = s.running := rfl
@[simp] theorem setNet_area (s : State) (r : NetPort × List NoticeOut) : (s.setNet r).area = s.area := rfl
@[simp] theorem setNet_io (s : State) (r : NetPort × List NoticeOut) :
    (s.setNet r).io = handAll s.env r.2 s.io := rfl
@[simp] theorem setNet_tick (s : State) (r : NetPort × List NoticeOut) : (s.setNet r).tick = s.tick := rfl
@[simp] theorem setNet_header (s : State) (r : NetPort × List NoticeOut) : (s.setNet r).header = s.header := rfl
@[simp] theorem setNet_sh (s : State) (r : NetPort × List NoticeOut) : (s.setNet r).sh = s.sh := rfl
@[simp] theorem setNet_nh (s : State) (r : NetPort × List NoticeOut) : (s.setNet r).nh = r.1 := rfl
@[simp] theorem setNet_seats (s : State) (r : NetPort × List NoticeOut) : (s.setNet r).seats = s.seats := rfl
@[simp] theorem setNet_streams (s : State) (r : NetPort × List NoticeOut) : (s.setNet r).streams = s.streams := rfl
@[simp] theorem setNet_pool (s : State) (r : NetPort × List NoticeOut) : (s.setNet r).pool = s.pool := rfl
@[simp] theorem setNet_slotMap (s : State) (r : NetPort × List NoticeOut) : (s.setNet r).slotMap = s.slotMap := rfl

/-! ## The registers written -/

@[simp] theorem modRegs_pending (s : State) (f : Regs → Regs) : (s.modRegs f).pending = s.pending := rfl
@[simp] theorem modRegs_regs (s : State) (f : Regs → Regs) : (s.modRegs f).regs = f s.regs := rfl
@[simp] theorem modRegs_frame (s : State) (f : Regs → Regs) : (s.modRegs f).frame = s.frame := rfl
@[simp] theorem modRegs_cycle (s : State) (f : Regs → Regs) : (s.modRegs f).cycle = s.cycle := rfl
@[simp] theorem modRegs_running (s : State) (f : Regs → Regs) : (s.modRegs f).running = s.running := rfl
@[simp] theorem modRegs_area (s : State) (f : Regs → Regs) : (s.modRegs f).area = s.area := rfl
@[simp] theorem modRegs_io (s : State) (f : Regs → Regs) : (s.modRegs f).io = s.io := rfl
@[simp] theorem modRegs_tick (s : State) (f : Regs → Regs) : (s.modRegs f).tick = s.tick := rfl
@[simp] theorem modRegs_header (s : State) (f : Regs → Regs) : (s.modRegs f).header = s.header := rfl
@[simp] theorem modRegs_sh (s : State) (f : Regs → Regs) : (s.modRegs f).sh = s.sh := rfl
@[simp] theorem modRegs_nh (s : State) (f : Regs → Regs) : (s.modRegs f).nh = s.nh := rfl
@[simp] theorem modRegs_seats (s : State) (f : Regs → Regs) : (s.modRegs f).seats = s.seats := rfl
@[simp] theorem modRegs_streams (s : State) (f : Regs → Regs) : (s.modRegs f).streams = s.streams := rfl
@[simp] theorem modRegs_pool (s : State) (f : Regs → Regs) : (s.modRegs f).pool = s.pool := rfl
@[simp] theorem modRegs_slotMap (s : State) (f : Regs → Regs) : (s.modRegs f).slotMap = s.slotMap := rfl

/-! ## The settings of one seat -/

/-- Reading a seat after one seat has been replaced. -/
theorem modSeat_get (s : State) (k j : SeatNo) (f : Seat → Seat) :
    (s.modSeat k f).seats[j] = if k = j then f s.seats[k] else s.seats[j] := by
  simp [Vector.getElem_set, Fin.ext_iff]

/-- Reading a stream after one stream has been replaced. -/
theorem modStream_get (s : State) (k j : StreamNo) (f : Stream → Stream) :
    (s.modStream k f).streams[j] = if k = j then f s.streams[k] else s.streams[j] := by
  simp [Vector.getElem_set, Fin.ext_iff]

/-- Replacing adopted settings replaces one seat. -/
theorem modAdopted_eq (s : State) (k : SeatNo) (f : Settings → Settings) :
    s.modAdopted k f = s.modSeat k fun x => { x with adopted := f x.adopted } := rfl

/-- Replacing what is due replaces one seat. -/
theorem modDue_eq (s : State) (k : SeatNo) (f : Due → Due) :
    s.modDue k f = s.modSeat k fun x => { x with due := f x.due } := rfl

/-! ## Classes of the Notice Unit -/

/-- Reading a class after one has been replaced. -/
theorem setCls_cls (io : Io) (x y : NoticeClass) (z : ClassState) :
    (io.setCls x z).cls y = if x = y then z else io.cls y := by
  cases x <;> cases y <;> rfl

@[simp] theorem setCls_mem (io : Io) (x : NoticeClass) (z : ClassState) : (io.setCls x z).mem = io.mem := by
  cases x <;> rfl

@[simp] theorem setCls_turns (io : Io) (x : NoticeClass) (z : ClassState) : (io.setCls x z).turns = io.turns := by
  cases x <;> rfl

@[simp] theorem setCls_windowFault (io : Io) (x : NoticeClass) (z : ClassState) :
    (io.setCls x z).windowFault = io.windowFault := by
  cases x <;> rfl

end Sys2Proof.Laws
end

