-- ==== Sys2Proof/Laws/Bus.lean ====
section
/-! SUPPORT. Everything the part can do to its bus side, said once: whatever a block does in a step, the bus side it
leaves is reached from the one it found by a few elementary moves.  A law of host memory or of the pending lists is
then proved over the moves alone. -/

namespace Sys2Proof.Laws

open Sys2Proof.Machine

/-- `BusReach lo hi x y`: the bus side `y` is reached from `x` by host writes that land, word writes inside the window
from `lo` to `hi`, notices handed, heads taken from pending lists, slots shown or taken back, and WINDOW_FAULT set. -/
inductive BusReach (lo hi : Nat) : Io → Io → Prop
  | refl (io : Io) : BusReach lo hi io io
  | turn (io : Io) : BusReach lo hi io (takeTurn io).2
  | store (a : Nat) (w : Word) (io : Io) : lo ≤ a → a + 4 ≤ hi →
      BusReach lo hi io { io with mem := writeMemWord a w io.mem }
  | hand (e : Env) (c : Code) (src : Source) (d0 d1 d2 : Word) (io : Io) :
      BusReach lo hi io (hand e c src d0 d1 d2 io)
  | take (c : NoticeClass) (io : Io) :
      BusReach lo hi io (io.setCls c { io.cls c with waiting := (io.cls c).waiting.tail })
  | show (c : NoticeClass) (n : Option Notice) (io : Io) : BusReach lo hi io (io.setCls c { io.cls c with shown := n })
  | fault (io : Io) : BusReach lo hi io { io with windowFault := true }
  | trans {x y z : Io} : BusReach lo hi x y → BusReach lo hi y z → BusReach lo hi x z

variable {lo hi : Nat}

/-! ## Folds and single accesses -/

/-- A fold whose every step reaches on, reaches on. -/
theorem reach_foldl {α β : Type} {f : β → α → β} {io : β → Io}
    (h : ∀ b a, BusReach lo hi (io b) (io (f b a))) (l : List α) (b : β) :
    BusReach lo hi (io b) (io (l.foldl f b)) := by
  induction l generalizing b with
  | nil => exact .refl _
  | cons a l ih => exact .trans (h b a) (ih (f b a))

theorem handAll_reach (e : Env) (ns : List NoticeOut) (io : Io) : BusReach lo hi io (handAll e ns io) :=
  reach_foldl (io := id) (fun _ _ => .hand ..) ns io

theorem readWord_reach (a : Nat) (io : Io) : BusReach lo hi io (readWord a io).2 := .turn io

theorem readHalf_reach (a : Nat) (io : Io) : BusReach lo hi io (readHalf a io).2 := .turn io

theorem readReporting_reach (e : Env) (src : Source) (d : Word) (a : Nat) (io : Io) :
    BusReach lo hi io (readReporting e src d a io).2 := by
  unfold readReporting
  dsimp only
  split
  · exact .trans (readWord_reach a io) (.hand ..)
  · exact readWord_reach a io

theorem readRecord_reach (e : Env) (src : Source) (as : List Nat) (io : Io) :
    BusReach lo hi io (readRecord e src as io).2 := by
  induction as generalizing io with
  | nil => exact .refl _
  | cons a as ih => exact .trans (readReporting_reach e src 0 a io) (ih _)

theorem writeWord_reach (e : Env) (a : Nat) (w : Word) (io : Io) : BusReach e.lo e.hi io (writeWord e a w io).2 := by
  unfold writeWord
  split
  · next h =>
    simp only [inWindow, Bool.and_eq_true, decide_eq_true_eq] at h
    dsimp only
    split
    · exact .turn io
    · exact .trans (.turn io) (.store a w _ h.1 h.2)
  · exact .refl _

theorem writeRecordWord_reach (e : Env) (src : Source) (r : RecordWrite) (x : Nat × Word) :
    BusReach e.lo e.hi r.io (writeRecordWord e src r x).io := by
  unfold writeRecordWord
  dsimp only
  split
  · exact writeWord_reach ..
  · exact writeWord_reach ..
  · exact .trans (writeWord_reach ..) (.hand ..)

theorem writeRecord_reach (e : Env) (src : Source) (ws : List (Nat × Word)) (io : Io) :
    BusReach e.lo e.hi io (writeRecord e src ws io).2 := by
  have h := reach_foldl (io := RecordWrite.io) (writeRecordWord_reach e src) ws
    { made := true, refused := none, io := io }
  unfold writeRecord
  dsimp only
  split
  · exact h
  · exact .trans h (.hand ..)

/-! ## The Playout Engine -/

theorem Fetch_post_reach (e : Env) (j : StreamNo) (c : Code) (d0 d1 : Word) (f : Fetch) :
    BusReach lo hi f.io (f.post e j c d0 d1).io := .hand ..

theorem Fetch_failure_reach (e : Env) (j : StreamNo) (g : Segment) (a : Nat) (f : Fetch) :
    BusReach lo hi f.io (f.failure e j g a).io := by
  unfold Fetch.failure
  split
  · exact .refl _
  · exact Fetch_post_reach ..

theorem judgeSegment_reach (e : Env) (j : StreamNo) (g : Segment) (count address : Word) (f : Fetch) :
    BusReach lo hi f.io (judgeSegment e j g count address f).2.io := by
  unfold judgeSegment
  split
  · dsimp only
    split
    · exact .refl _
    · exact Fetch_post_reach ..
  · exact .refl _

theorem readSegment_reach (e : Env) (j : StreamNo) (g : Segment) (f : Fetch) :
    BusReach lo hi f.io (readSegment e j g f).2.io := by
  unfold readSegment
  split
  · exact .refl _
  · have h : BusReach lo hi f.io (readWord (addressAt e.area j g) (readWord (countAt e.area j g) f.io).2).2 :=
      .trans (readWord_reach ..) (readWord_reach ..)
    dsimp only
    split
    · exact .trans h (judgeSegment_reach e j g _ _ { f with io := _ })
    · exact .trans h (Fetch_failure_reach e j g _ { f with io := _ })
    · exact .trans h (Fetch_failure_reach e j g _ { f with io := _ })

theorem endOneShot_reach (e : Env) (j : StreamNo) (g : Segment) (f : Fetch) :
    BusReach lo hi f.io (endOneShot e j g f).io := by
  have h : BusReach lo hi f.io (readSegment e j g.other { f.post e j .segmentDone g.word 0 with ended := g :: f.ended }).2.io :=
    .trans (Fetch_post_reach e j .segmentDone g.word 0 f)
      (readSegment_reach e j g.other { f.post e j .segmentDone g.word 0 with ended := g :: f.ended })
  unfold endOneShot
  dsimp only
  split
  · exact h
  · exact .trans h (Fetch_post_reach e j .starved g.word 0 (Fetch.moveTo _ none))

theorem endPass_reach (e : Env) (j : StreamNo) (g : Segment) (start : Word) (length : Nat) (f : Fetch) :
    BusReach lo hi f.io (endPass e j g start length f).io := by
  have h : BusReach lo hi f.io (readSegment e j g.other f).2.io := readSegment_reach ..
  unfold endPass
  dsimp only
  split
  · next p _ => exact .trans h (Fetch_post_reach e j .segmentLeft g.word 0 (Fetch.moveTo _ (some p)))
  · exact h

theorem readSample_reach (e : Env) (j : StreamNo) (g : Segment) (a : Nat) (f : Fetch) :
    BusReach lo hi f.io (readSample e j g a f).io := by
  have h : BusReach lo hi f.io (readHalf a f.io).2 := readHalf_reach ..
  unfold readSample
  dsimp only
  split
  · exact h
  · exact .trans h (Fetch_failure_reach e j g a { f with io := _ })

theorem consume_reach (e : Env) (j : StreamNo) (f : Fetch) : BusReach lo hi f.io (consume e j f).io := by
  unfold consume
  split
  · exact .refl _
  · next g n a _ =>
    have h : BusReach lo hi f.io (readSample e j g a.toNat f).io := readSample_reach ..
    dsimp only
    split
    · generalize hF : Fetch.moveTo _ _ = F
      have hio : F.io = (readSample e j g a.toNat f).io := by rw [← hF]; rfl
      exact .trans (hio ▸ h) (endOneShot_reach e j g F)
    · exact h
  · next g start length cursor _ =>
    have h : BusReach lo hi f.io (readSample e j g (sampleAddress start cursor) f).io := readSample_reach ..
    dsimp only
    split
    · exact .trans h (endPass_reach e j g start length _)
    · exact h

theorem consumeMany_reach (e : Env) (j : StreamNo) (n : Nat) (f : Fetch) :
    BusReach lo hi f.io (consumeMany e j n f).io := by
  induction n generalizing f with
  | zero => exact .refl _
  | succ n ih => exact .trans (consume_reach e j f) (ih _)

theorem startFetch_reach (e : Env) (j : StreamNo) (f : Fetch) : BusReach lo hi f.io (startFetch e j f).io := by
  have h : BusReach lo hi f.io (readSegment e j .b (readSegment e j .a f).2).2.io :=
    .trans (readSegment_reach ..) (readSegment_reach ..)
  unfold startFetch
  dsimp only
  split
  · exact h
  · exact h
  · split
    · exact h
    · exact .trans h (Fetch_post_reach e j .starved 0 0 _)

theorem fetchRunning_reach (e : Env) (j : StreamNo) (f : Fetch) : BusReach lo hi f.io (fetchRunning e j f).io := by
  have h : BusReach lo hi f.io (if f.stream.position.isNone then startFetch e j f else f).io := by
    split
    · exact startFetch_reach e j f
    · exact .refl _
  unfold fetchRunning
  dsimp only
  generalize (if f.stream.position.isNone then startFetch e j f else f) = g at h ⊢
  split
  · exact h
  · exact .trans h (consumeMany_reach e j _ g)

theorem fetchStarved_reach (e : Env) (j : StreamNo) (f : Fetch) : BusReach lo hi f.io (fetchStarved e j f).io := by
  have h : BusReach lo hi f.io (readSegment e j .b (readSegment e j .a f).2).2.io :=
    .trans (readSegment_reach ..) (readSegment_reach ..)
  unfold fetchStarved
  dsimp only
  split <;> exact h

theorem fetchStream_reach (e : Env) (j : StreamNo) (st : Stream) (io : Io) :
    BusReach lo hi io (fetchStream e j st io).2 := by
  unfold fetchStream
  dsimp only
  generalize hF : Fetch.mk _ io _ _ _ _ = F
  have hio : F.io = io := by rw [← hF]
  split
  · exact hio ▸ .refl _
  · exact hio ▸ .refl _
  · exact hio ▸ fetchRunning_reach e j F
  · exact hio ▸ fetchStarved_reach e j F

theorem writeSegment_reach (e : Env) (j : StreamNo) (g : Segment) (address : Word) (count : Nat) (io : Io) :
    BusReach e.lo e.hi io (writeSegment e j g address count io).2 := writeRecord_reach ..

theorem retryOwed_reach (e : Env) (j : StreamNo) (p : Stream × Io) (g : Segment) :
    BusReach e.lo e.hi p.2 (retryOwed e j p g).2 := by
  unfold retryOwed
  split
  · exact .refl _
  · exact writeSegment_reach ..

theorem writeBackOne_reach (e : Env) (j : StreamNo) (p : Stream × Io) (b : WriteBack) :
    BusReach e.lo e.hi p.2 (writeBackOne e j p b).2 := writeSegment_reach ..

theorem writeBacks_reach (e : Env) (j : StreamNo) (st : Stream) (io : Io) :
    BusReach e.lo e.hi io (writeBacks e j st io).2 :=
  .trans (reach_foldl (io := Prod.snd) (retryOwed_reach e j) [Segment.a, Segment.b] (st, io))
    (reach_foldl (io := Prod.snd) (writeBackOne_reach e j) st.backs _)

theorem writeStreamReport_reach (e : Env) (j : StreamNo) (st : Stream) (io : Io) :
    BusReach e.lo e.hi io (writeStreamReport e j st io) := writeRecord_reach ..

/-! ## The Prompt Unit -/

theorem scanCell_reach (e : Env) (k : SeatNo) (x : PromptUnit × Io) (c : CellNo) :
    BusReach lo hi x.2 (scanCell e k x c).2 := by
  unfold scanCell
  split
  · exact .refl _
  · dsimp only
    split <;> exact readReporting_reach ..

theorem scanCells_reach (e : Env) (k : SeatNo) (p : PromptUnit) (io : Io) :
    BusReach lo hi io (scanCells e k p io).2 := reach_foldl (io := Prod.snd) (scanCell_reach e k) cells (p, io)

theorem readClipSample_reach (start : Word) (r : ClipRead) (index : Nat) :
    BusReach lo hi r.io (readClipSample start r index).io := by
  have h : BusReach lo hi r.io (readHalf (sampleAddress start index) r.io).2 := readHalf_reach ..
  unfold readClipSample
  dsimp only
  split <;> exact h

theorem fetchClip_reach (e : Env) (k : SeatNo) (cell : CellNo) (c : Clip) (p : PromptUnit) (io : Io) :
    BusReach lo hi io (fetchClip e k cell c p io).io := by
  have h := reach_foldl (lo := lo) (hi := hi) (io := ClipRead.io) (f := fun r i => readClipSample c.address r (c.cursor + i))
    (fun r _ => readClipSample_reach _ r _) (List.range (bufferSource c)) { samples := [], failed := none, io := io }
  unfold fetchClip
  dsimp only
  split
  · exact .trans h (.hand ..)
  · exact h

theorem takeClip_reach (e : Env) (k : SeatNo) (cell : CellNo) (address length format : Word) (p : PromptUnit)
    (io : Io) : BusReach lo hi io (takeClip e k cell address length format p io).io := by
  unfold takeClip
  split
  · exact .refl _
  · exact fetchClip_reach ..

theorem readClipEntry_reach (e : Env) (k : SeatNo) (cell : CellNo) (index : Nat) (p : PromptUnit) (io : Io) :
    BusReach lo hi io (readClipEntry e k cell index p io).io := by
  unfold readClipEntry
  dsimp only
  split
  · exact readReporting_reach ..
  · refine .trans (readReporting_reach e (.seat k) (cellNumber cell) (clipAt e.area index) io) ?_
    split
    · exact readReporting_reach ..
    · refine .trans (readReporting_reach e (.seat k) (cellNumber cell) (clipAt e.area index + 4) _) ?_
      split
      · exact readReporting_reach ..
      · exact .trans (readReporting_reach ..) (takeClip_reach ..)

theorem prepareCell_reach (e : Env) (k : SeatNo) (cell : CellNo) (p : PromptUnit) (io : Io) :
    BusReach lo hi io (prepareCell e k cell p io).io := by
  unfold prepareCell
  dsimp only
  split
  · exact readReporting_reach ..
  · refine .trans (readReporting_reach e (.seat k) (cellNumber cell) (cellAt e.area k cell + 4) io) ?_
    split
    · exact readReporting_reach ..
    · refine .trans (readReporting_reach e (.seat k) (cellNumber cell) (cellAt e.area k cell + 8) _) ?_
      split
      · exact .refl _
      · exact readClipEntry_reach ..

theorem prepareAgain_reach (e : Env) (k : SeatNo) (cell : CellNo) (p : PromptUnit) (io : Io) :
    BusReach lo hi io (prepareAgain e k cell p io).io := by
  unfold prepareAgain
  split
  · exact prepareCell_reach ..
  · exact fetchClip_reach ..

theorem playCell_reach (e : Env) (k : SeatNo) (cell : CellNo) (p : PromptUnit) (io : Io) :
    BusReach lo hi io (playCell e k cell p io).io := by
  unfold playCell
  dsimp only
  split
  · exact .refl _
  · split
    · exact .refl _
    · next c _ =>
      split <;> exact fetchClip_reach ..

theorem promptFrame_reach (e : Env) (k : SeatNo) (plays : Bool) (p : PromptUnit) (io : Io) :
    BusReach lo hi io (promptFrame e k plays p io).io := by
  unfold promptFrame
  split
  · exact .refl _
  · split
    · split
      · exact playCell_reach ..
      · exact .refl _
    · split
      · exact .refl _
      · split
        · exact prepareAgain_reach ..
        · exact prepareCell_reach ..

theorem makeWrite_reach (e : Env) (k : SeatNo) (x : PromptUnit × Io) (w : CellWrite) :
    BusReach e.lo e.hi x.2 (makeWrite e k x w).2 := by
  unfold makeWrite
  dsimp only
  split
  · exact writeRecord_reach ..
  · dsimp only
    split
    · exact .trans (writeRecord_reach ..) (.hand ..)
    · exact writeRecord_reach ..

theorem retryCell_reach (e : Env) (k : SeatNo) (x : PromptUnit × Io) (o : OwedCell) :
    BusReach e.lo e.hi x.2 (retryCell e k x o).2 :=
  writeRecord_reach ..

theorem retryCells_reach (e : Env) (k : SeatNo) (p : PromptUnit) (io : Io) :
    BusReach e.lo e.hi io (retryCells e k p io).2 :=
  reach_foldl (io := Prod.snd) (retryCell_reach e k) p.owedInOrder ({ p with owed := [] }, io)

theorem endCells_reach (e : Env) (k : SeatNo) (f : PromptFrame) :
    BusReach e.lo e.hi f.io (endCells e k f).2 :=
  .trans (retryCells_reach e k f.unit f.io) (reach_foldl (io := Prod.snd) (makeWrite_reach e k) _ _)

/-! ## A seat's frame work -/

theorem frameWorkSeat_reach (e : Env) (k : SeatNo) (kept : SeatNo → Kept) (i : SeatInputs) (x : Seat) (io : Io) :
    BusReach e.lo e.hi io (frameWorkSeat e k kept i x io).2 := by
  unfold frameWorkSeat
  dsimp only
  refine .trans ?_ (writeRecord_reach ..)
  refine .trans ?_ (endCells_reach ..)
  exact .trans (handAll_reach ..) (promptFrame_reach ..)

theorem idleSeat_reach (e : Env) (k : SeatNo) (x : Seat) (io : Io) : BusReach e.lo e.hi io (idleSeat e k x io).2 :=
  retryCells_reach ..

/-! ## The Notice Unit -/

theorem heldRead_reach (e : Env) (io : Io) (c : NoticeClass) : BusReach lo hi io (heldRead e io c) := by
  unfold heldRead
  split
  · dsimp only
    split
    · exact .trans (readReporting_reach ..) (.show ..)
    · exact readReporting_reach ..
  · exact .refl _

theorem heldReads_reach (e : Env) (io : Io) : BusReach lo hi io (heldReads e io) :=
  reach_foldl (io := id) (heldRead_reach e) classes io

theorem writeUntil_reach (e : Env) (ws : List (Nat × Word)) (io : Io) :
    BusReach e.lo e.hi io (writeUntil e ws io).2 := by
  induction ws generalizing io with
  | nil => exact .refl _
  | cons x ws ih =>
    unfold writeUntil
    dsimp only
    split
    · exact .trans (writeWord_reach ..) (ih _)
    · exact writeWord_reach ..
    · exact writeWord_reach ..

theorem serveEntry_reach (e : Env) (c : NoticeClass) (n : Notice) (s : Serving) :
    BusReach e.lo e.hi s.io (serveEntry e c n s).io := by
  unfold serveEntry
  dsimp only
  split
  · exact .trans (writeUntil_reach ..) (.show ..)
  · exact .trans (writeUntil_reach ..) (.fault _)
  · exact writeUntil_reach ..

theorem serveClass_reach (e : Env) (s : Serving) (c : NoticeClass) :
    BusReach e.lo e.hi s.io (serveClass e s c).io := by
  unfold serveClass
  split
  · exact .refl _
  · split
    · exact .refl _
    · next n rest h =>
      refine .trans ?_ (serveEntry_reach e c n _)
      have := BusReach.take (lo := e.lo) (hi := e.hi) c s.io
      rwa [h] at this

theorem serveNotices_reach (e : Env) (io : Io) : BusReach e.lo e.hi io (serveNotices e io) :=
  .trans (reach_foldl (io := Serving.io) (serveClass_reach e) classes { io := io, later := [] }) (handAll_reach ..)

end Sys2Proof.Laws
end

