-- ==== Sys2Proof/Laws/Memory.lean ====
section
/-! SUPPORT. Host memory: its canonical form is kept, a read after a write gives what was written, and a write leaves
every other byte alone. -/

namespace Sys2Proof.Laws

open Sys2Proof.Machine

/-! ## The canonical form -/

theorem risingFrom_weaken {a b : Nat} {m : List Host.Cell} (h : risingFrom b m = true) (hab : a ≤ b) :
    risingFrom a m = true := by
  cases m with
  | nil => rfl
  | cons x m =>
    simp only [risingFrom, Bool.and_eq_true, decide_eq_true_eq] at h ⊢
    exact ⟨⟨by omega, h.1.2⟩, h.2⟩

theorem consCell_rising {a : Nat} {v : Byte} {m : List Host.Cell} (h : risingFrom (a + 1) m = true) :
    risingFrom a (consCell a v m) = true := by
  unfold consCell
  split
  · exact risingFrom_weaken h (by omega)
  · next hv => simp [risingFrom, hv, h]

theorem writeByte_rising {a : Nat} {v : Byte} {m : List Host.Cell} {lo : Nat} (hlo : lo ≤ a)
    (h : risingFrom lo m = true) : risingFrom lo (writeByte a v m) = true := by
  induction m generalizing lo with
  | nil => exact risingFrom_weaken (consCell_rising rfl) hlo
  | cons x m ih =>
    obtain ⟨b, w⟩ := x
    have h' := h
    simp only [risingFrom, Bool.and_eq_true, decide_eq_true_eq] at h'
    obtain ⟨⟨hb, hw⟩, hm⟩ := h'
    unfold writeByte
    split
    · refine risingFrom_weaken (consCell_rising ?_) hlo
      simpa [risingFrom, hw, hm] using by omega
    · split
      · next hab => subst hab; exact risingFrom_weaken (consCell_rising hm) hlo
      · simp only [risingFrom, Bool.and_eq_true, decide_eq_true_eq]
        exact ⟨⟨hb, hw⟩, ih (by omega) hm⟩

/-- A byte write keeps the canonical form. -/
theorem writeByte_wf {a : Nat} {v : Byte} {m : List Host.Cell} (h : memoryWf m = true) :
    memoryWf (writeByte a v m) = true := writeByte_rising (Nat.zero_le _) h

/-- A word write keeps the canonical form. -/
theorem writeMemWord_wf {a : Nat} {w : Word} {m : List Host.Cell} (h : memoryWf m = true) :
    memoryWf (writeMemWord a w m) = true :=
  writeByte_wf (writeByte_wf (writeByte_wf (writeByte_wf h)))

/-- The host's writes keep the canonical form. -/
theorem hostWrites_wf {ws : List (Word × Byte)} {m : List Host.Cell} (h : memoryWf m = true) :
    memoryWf (hostWrites ws m) = true := by
  induction ws generalizing m with
  | nil => exact h
  | cons w ws ih => exact ih (writeByte_wf h)

/-- Memory is in canonical form after reset. -/
theorem reset_memory_wf : memoryWf State.reset.io.mem = true := rfl

/-! ## Reading after writing -/

theorem readByte_below {a b : Nat} {m : List Host.Cell} (h : risingFrom b m = true) (hab : a < b) :
    readByte a m = unlistedByte := by
  cases m with
  | nil => rfl
  | cons x m =>
    simp only [risingFrom, Bool.and_eq_true, decide_eq_true_eq] at h
    have : a < x.1 := by omega
    simp [readByte, this, Nat.ne_of_lt this]

theorem readByte_consCell {a c : Nat} {v : Byte} {m : List Host.Cell} (h : risingFrom (a + 1) m = true) :
    readByte c (consCell a v m) = if c = a then v else readByte c m := by
  unfold consCell
  split
  · next hv =>
    split
    · next hc => rw [hc, readByte_below h (by omega), hv]
    · rfl
  · simp only [readByte]
    split
    · rfl
    · split
      · next hlt => rw [readByte_below h (by omega)]
      · rfl

theorem readByte_writeByte_from {a c : Nat} {v : Byte} {m : List Host.Cell} {lo : Nat}
    (h : risingFrom lo m = true) : readByte c (writeByte a v m) = if c = a then v else readByte c m := by
  induction m generalizing lo with
  | nil => exact readByte_consCell rfl
  | cons x m ih =>
    obtain ⟨b, w⟩ := x
    have h' := h
    simp only [risingFrom, Bool.and_eq_true, decide_eq_true_eq] at h'
    obtain ⟨⟨hb, hw⟩, hm⟩ := h'
    unfold writeByte
    split
    · next hab =>
      exact readByte_consCell (by simpa [risingFrom, hw, hm] using by omega)
    · split
      · next hab =>
        subst hab
        rw [readByte_consCell hm]
        split
        · rfl
        · next hc =>
          simp only [readByte, hc, if_false]
          split
          · next hlt => exact readByte_below hm (by omega)
          · rfl
      · next h1 h2 =>
        simp only [readByte]
        split
        · next hc => rw [if_neg (by omega)]
        · split
          · next hlt => rw [if_neg (by omega)]
          · exact ih hm

/-- Reading a byte after writing one: the value written at its address, and what stood there anywhere else. -/
theorem readByte_writeByte {a c : Nat} {v : Byte} {m : List Host.Cell} (h : memoryWf m = true) :
    readByte c (writeByte a v m) = if c = a then v else readByte c m := readByte_writeByte_from h

/-- A word write leaves every byte outside its four as it was. -/
theorem readByte_writeMemWord_other {a c : Nat} {w : Word} {m : List Host.Cell} (h : memoryWf m = true)
    (hc : c < a ∨ a + 4 ≤ c) : readByte c (writeMemWord a w m) = readByte c m := by
  unfold writeMemWord
  rw [readByte_writeByte (writeByte_wf (writeByte_wf (writeByte_wf h))),
    readByte_writeByte (writeByte_wf (writeByte_wf h)), readByte_writeByte (writeByte_wf h), readByte_writeByte h]
  rw [if_neg (by omega), if_neg (by omega), if_neg (by omega), if_neg (by omega)]

/-- A word is its four bytes put together. -/
theorem word_of_bytes (w : Word) :
    w.extractLsb' 24 8 ++ w.extractLsb' 16 8 ++ w.extractLsb' 8 8 ++ w.extractLsb' 0 8 = w := by
  apply BitVec.eq_of_getLsbD_eq
  intro i hi
  simp only [BitVec.getLsbD_append, BitVec.getLsbD_extractLsb']
  split
  · simp [*]
  · split
    · have : i - 8 < 8 := by omega
      simp [this, show 8 + (i - 8) = i by omega]
    · split
      · have : i - 8 - 8 < 8 := by omega
        simp [this, show 16 + (i - 8 - 8) = i by omega]
      · have : i - 8 - 8 - 8 < 8 := by omega
        simp [this, show 24 + (i - 8 - 8 - 8) = i by omega]

/-- Reading a word at the address it was just written to. -/
theorem readMemWord_writeMemWord {a : Nat} {w : Word} {m : List Host.Cell} (h : memoryWf m = true) :
    readMemWord a (writeMemWord a w m) = w := by
  have h1 := writeByte_wf (a := a) (v := w.extractLsb' 0 8) h
  have h2 := writeByte_wf (a := a + 1) (v := w.extractLsb' 8 8) h1
  have h3 := writeByte_wf (a := a + 2) (v := w.extractLsb' 16 8) h2
  unfold readMemWord writeMemWord
  simp only [readByte_writeByte h3, readByte_writeByte h2, readByte_writeByte h1, readByte_writeByte h]
  simp only [if_pos, show a + 2 ≠ a + 3 by omega, show a + 1 ≠ a + 3 by omega, show a ≠ a + 3 by omega,
    show a + 1 ≠ a + 2 by omega, show a ≠ a + 2 by omega, show a ≠ a + 1 by omega, if_false]
  exact word_of_bytes w

end Sys2Proof.Laws
end

