-- ==== Sys2Proof/Laws/Ops.lean ====
section
/-! SUPPORT. What each shared operation can do, said once; later proofs cite these lemmas and unfold nothing. -/

namespace Sys2Proof.Laws

open Sys2Proof.Machine

/-! ## Notices handed -/

@[simp] theorem hand_mem (e : Env) (c : Code) (src : Source) (d0 d1 d2 : Word) (io : Io) :
    (hand e c src d0 d1 d2 io).mem = io.mem := by
  unfold Machine.hand
  split <;> simp

@[simp] theorem hand_turns (e : Env) (c : Code) (src : Source) (d0 d1 d2 : Word) (io : Io) :
    (hand e c src d0 d1 d2 io).turns = io.turns := by
  unfold Machine.hand
  split <;> simp

@[simp] theorem hand_windowFault (e : Env) (c : Code) (src : Source) (d0 d1 d2 : Word) (io : Io) :
    (hand e c src d0 d1 d2 io).windowFault = io.windowFault := by
  unfold Machine.hand
  split <;> simp

/-- A notice touches neither the turns nor memory, so it may be handed before or after they are replaced. -/
theorem hand_onto (e : Env) (c : Code) (src : Source) (d0 d1 d2 : Word) (io : Io) (ts : List BusTurn)
    (m : List Host.Cell) : hand e c src d0 d1 d2 { io with turns := ts, mem := m } =
      { hand e c src d0 d1 d2 io with turns := ts, mem := m } := by
  unfold Machine.hand Io.setCls Io.cls
  split <;> [(cases c.cls <;> rfl); rfl]

/-- The same of several notices. -/
theorem handAll_onto (e : Env) (ns : List NoticeOut) (io : Io) (ts : List BusTurn) (m : List Host.Cell) :
    handAll e ns { io with turns := ts, mem := m } = { handAll e ns io with turns := ts, mem := m } := by
  unfold handAll
  induction ns generalizing io with
  | nil => rfl
  | cons n ns ih => rw [List.foldl_cons, hand_onto, ih, List.foldl_cons]

/-- A class after a notice has been handed: the notice is folded into the pending list of its own class, and no
other class and no shown notice changes (R188, R189). -/
theorem hand_cls (e : Env) (c : Code) (src : Source) (d0 d1 d2 : Word) (io : Io) (x : NoticeClass) :
    (hand e c src d0 d1 d2 io).cls x =
      if e.running = true ∧ x = c.cls then
        { io.cls x with waiting := foldNotice ⟨c, src, e.frame, 0, d0, d1, d2⟩ (io.cls x).waiting }
      else io.cls x := by
  unfold Machine.hand
  by_cases h : e.running = true
  · by_cases hx : x = c.cls
    · subst hx; simp [h, setCls_cls]
    · simp [h, hx, setCls_cls, Ne.symm hx]
  · simp [h]

/-- The events of a pending list, in order. -/
def events (ns : List Notice) : List (Code × Source) := ns.map fun n => (n.code, n.source)

/-- Folding a notice in leaves the events of the list as they stand, or puts a new event at the end (R189). -/
theorem events_foldNotice (n : Notice) (ns : List Notice) :
    events (foldNotice n ns) =
      if (n.code, n.source) ∈ events ns then events ns else events ns ++ [(n.code, n.source)] := by
  induction ns with
  | nil => rfl
  | cons x xs ih =>
    unfold foldNotice
    by_cases h : n.sameEvent x = true
    · have h' : n.code = x.code ∧ n.source = x.source := by simpa [Notice.sameEvent] using h
      simp [h, events, h']
    · have h' : ¬ (n.code = x.code ∧ n.source = x.source) := by simpa [Notice.sameEvent] using h
      rw [if_neg h]
      have hm : (n.code, n.source) ∈ events (x :: xs) ↔ (n.code, n.source) ∈ events xs := by
        simp [events, h']
      have hc : events (x :: foldNotice n xs) = (x.code, x.source) :: events (foldNotice n xs) := rfl
      rw [hc, ih]
      simp only [hm]
      split <;> rfl

/-! ## Accesses to the bus -/

/-- What an access finds: the host's writes before it have landed, and one turn is used up. -/
theorem takeTurn_spec (io : Io) :
    (takeTurn io = (false, io) ∧ io.turns = []) ∨
    ∃ t ts, io.turns = t :: ts ∧ takeTurn io = (t.error, { io with turns := ts, mem := hostWrites t.writes io.mem }) := by
  unfold takeTurn
  cases h : io.turns with
  | nil => exact .inl ⟨rfl, rfl⟩
  | cons t ts => exact .inr ⟨t, ts, rfl, rfl⟩

/-- An access, and the host's writes before it, keep the canonical form of host memory. -/
theorem takeTurn_wf {io : Io} (h : memoryWf io.mem = true) : memoryWf (takeTurn io).2.mem = true := by
  obtain ⟨e, -⟩ | ⟨t, ts, -, e⟩ := takeTurn_spec io
  · rw [e]; exact h
  · rw [e]; exact hostWrites_wf h

/-- The end of a step on the bus keeps the canonical form of host memory. -/
theorem drain_wf {io : Io} (h : memoryWf io.mem = true) : memoryWf (drain io).mem = true := by
  unfold drain
  dsimp only
  generalize io.turns = ts
  generalize io.mem = m at h
  induction ts generalizing m with
  | nil => exact h
  | cons t ts ih => exact ih _ (hostWrites_wf h)

/-- How a word write of the part ends: refused outside the window with nothing touched, failed on the bus with the
word not written, or made (R186, R187). -/
theorem writeWord_spec (e : Env) (a : Nat) (w : Word) (io : Io) :
    (inWindow e a = false ∧ writeWord e a w io = (.refused, io)) ∨
    (inWindow e a = true ∧ (takeTurn io).1 = true ∧ writeWord e a w io = (.failed, (takeTurn io).2)) ∨
    (inWindow e a = true ∧ (takeTurn io).1 = false ∧
      writeWord e a w io = (.made, { (takeTurn io).2 with mem := writeMemWord a w (takeTurn io).2.mem })) := by
  unfold writeWord
  by_cases h : inWindow e a = true
  · by_cases ht : (takeTurn io).1 = true
    · exact .inr (.inl ⟨h, ht, by simp [h, ht]⟩)
    · exact .inr (.inr ⟨h, by simpa using ht, by simp [h, ht]⟩)
  · exact .inl ⟨by simpa using h, by simp [h]⟩

/-! ## The Tail Pool's lists (R36) -/

/-- A block put back is one more block of the free list. -/
theorem insertBlock_perm (b : Nat) (l : List Nat) : (insertBlock b l).Perm (b :: l) := by
  induction l with
  | nil => exact .refl _
  | cons x xs ih =>
    unfold insertBlock
    split
    · exact .refl _
    · exact (ih.cons x).trans (.swap b x xs)

/-- Blocks put back are so many more blocks of the free list. -/
theorem insertBlocks_perm (bs l : List Nat) : (bs.foldr insertBlock l).Perm (bs ++ l) := by
  induction bs with
  | nil => exact .refl _
  | cons b bs ih => exact (insertBlock_perm b _).trans (ih.cons b)

/-- Putting a block back keeps the free list in block-number order. -/
theorem insertBlock_sorted {b : Nat} {l : List Nat} (h : l.Pairwise (· < ·)) (hb : b ∉ l) :
    (insertBlock b l).Pairwise (· < ·) := by
  induction l with
  | nil => simp [insertBlock]
  | cons x xs ih =>
    simp only [List.mem_cons, not_or] at hb
    rw [List.pairwise_cons] at h
    unfold insertBlock
    split
    · next hlt =>
      rw [List.pairwise_cons, List.pairwise_cons]
      refine ⟨fun y hy => ?_, h⟩
      rcases List.mem_cons.1 hy with rfl | hy
      · exact hlt
      · exact lt_trans hlt (h.1 y hy)
    · next hnlt =>
      rw [List.pairwise_cons]
      refine ⟨fun y hy => ?_, ih h.2 hb.2⟩
      rcases List.mem_cons.1 ((insertBlock_perm b xs).mem_iff.1 hy) with rfl | hy
      · omega
      · exact h.1 y hy

end Sys2Proof.Laws
end

