-- ==== Sys2Proof/WellFormed.lean ====
section
/-! DEFINITION. Which terms of `Instr` stand for a command that can reach the part.

The meanings are total: they take an ill-formed term as well.  These checks say what a host, an adapter or a network
can send. -/

namespace Sys2Proof

/-- SOFT_RESET of a word for CONTROL (Table 12-1). -/
def softResetBit (w : Word) : Bool := w.getLsbD 1

/-- A CONTROL write that takes a field: with SOFT_RESET 1 it takes none and is the command SOFT_RESET (R173). -/
def controlOk (w : Word) : Bool := !softResetBit w

/-- A STATUS write that clears something (R173). -/
def clearOk (w : Word) : Bool := w.getLsbD 3

/-- A cycle start comes at least one bit clock after the one before. -/
def cycleStartOk (bitClocks : Nat) : Bool := decide (1 ≤ bitClocks)

/-- The sync bits of a whole cycle of a length the header admits, 256..4096 (R157), and the first of the next. -/
def syncOk (sync : List Bool) : Bool := decide (257 ≤ sync.length) && decide (sync.length ≤ 4097)

/-- Every seat and every stream. -/
def allWorkers : List Worker := (List.finRange 32).map Worker.seat ++ (List.finRange 16).map Worker.stream

/-- An order of the units names each of them once. -/
def orderOk (order : List Worker) : Bool := decide order.Nodup && allWorkers.all order.contains

/-- A well-formed command. -/
def Instr.wf : Instr → Bool
  | .pinReset => true
  | .softReset => true
  | .run w => controlOk w
  | .enableMask w => controlOk w
  | .windowFaultClear w => clearOk w
  | .registerWrite _ _ => true
  | .seatHighwayCycle _ => true
  | .debounceComplete _ _ => true
  | .receiveStoreArrival _ => true
  | .transmitStoreRead => true
  | .cycleStart bitClocks => cycleStartOk bitClocks
  | .syncTest sync => syncOk sync
  | .frameBoundary _ order => orderOk order
  | .hostTickExpiry _ => true

end Sys2Proof
end

