-- ==== Sys2Proof/Laws/PerInstr.lean ====
section
/-! SUPPORT. Facts about every command as syntax, one lemma for each constructor. -/

namespace Sys2Proof.Laws

/-- The word of CONTROL that a command carries. -/
def controlWord : Instr → Option Word
  | .run w => some w
  | .enableMask w => some w
  | _ => none

namespace ControlFields

/-- A well-formed command that takes a field of CONTROL asks for no soft reset (R173). -/
def Statement (i : Instr) : Prop := ∀ w, controlWord i = some w → i.wf = true → softResetBit w = false

/-- A command that carries no word of CONTROL. -/
theorem of_none {i : Instr} (h : controlWord i = none) : Statement i := fun w hw => by simp [h] at hw

theorem pinReset : Statement .pinReset := of_none rfl
theorem softReset : Statement .softReset := of_none rfl

theorem run (w : Word) : Statement (.run w) := fun v hv hw => by
  cases hv; simpa [Instr.wf, controlOk] using hw

theorem enableMask (w : Word) : Statement (.enableMask w) := fun v hv hw => by
  cases hv; simpa [Instr.wf, controlOk] using hw

theorem windowFaultClear (w : Word) : Statement (.windowFaultClear w) := of_none rfl
theorem registerWrite (r : HostReg) (w : Word) : Statement (.registerWrite r w) := of_none rfl
theorem seatHighwayCycle (up : Vector Word 32) : Statement (.seatHighwayCycle up) := of_none rfl
theorem debounceComplete (slot : SeatNo) (bit : StatusBit) : Statement (.debounceComplete slot bit) := of_none rfl
theorem receiveStoreArrival (slots : Vector Word 33) : Statement (.receiveStoreArrival slots) := of_none rfl
theorem transmitStoreRead : Statement .transmitStoreRead := of_none rfl
theorem cycleStart (bits : Nat) : Statement (.cycleStart bits) := of_none rfl
theorem syncTest (sync : List Bool) : Statement (.syncTest sync) := of_none rfl
theorem frameBoundary (turns : List BusTurn) (order : List Worker) : Statement (.frameBoundary turns order) :=
  of_none rfl
theorem hostTickExpiry (turns : List BusTurn) : Statement (.hostTickExpiry turns) := of_none rfl

end ControlFields

end Sys2Proof.Laws
end

