-- ==== Sys2Proof/Laws/Reach.lean ====
section
/-! SUPPORT. The same for whole states: what the scans and the work of a frame keep, what the boundary keeps, and that
all of them reach their bus side by the moves of `BusReach` within the write window. -/

namespace Sys2Proof.Laws

open Sys2Proof.Machine

/-- The window of a state's registers. -/
abbrev winLo (s : State) : Nat := s.regs.windowBase.toNat

/-- The window of a state's registers. -/
abbrev winHi (s : State) : Nat := s.regs.windowLimit.toNat

/-- A Network Highway Port but for what a header adoption changes. -/
def netCore (p : NetPort) : NetPort := { p with adopted := .reset, restart := false }

/-- A Seat Highway Port but for what a header adoption changes. -/
def seatCore (p : SeatPort) : SeatPort := { p with adopted := SeatPort.reset.adopted, restart := false }

/-- What neither a scan nor the work of a frame changes. -/
def unscanned (s : State) :
    List Instr × Regs × Word × Nat × Bool × Word × Bool × Bool × Nat × NetPort × SeatPort :=
  (s.pending, s.regs, s.frame, s.cycle, s.running, s.area, s.tick.standalone, s.tick.expired, s.header.serving,
    netCore s.nh, seatCore s.sh)

/-- `Keeps lo hi s t`: `t` comes about from `s` by scanning or working: the queue, the registers, the timeline, RUNNING,
the sampled area, STANDALONE, a due expiry, the count of serving seats and the highway ports but for adopted settings
stand, and the bus side is reached within the window from `lo` to `hi`. -/
structure Keeps (lo hi : Nat) (s t : State) : Prop where
  rest : unscanned t = unscanned s
  bus : BusReach lo hi s.io t.io

section

variable {lo hi : Nat} {s t u : State}

theorem Keeps.pending (h : Keeps lo hi s t) : t.pending = s.pending := congrArg (fun x => x.1) h.rest

theorem Keeps.regs (h : Keeps lo hi s t) : t.regs = s.regs := congrArg (fun x => x.2.1) h.rest

theorem Keeps.frame (h : Keeps lo hi s t) : t.frame = s.frame := congrArg (fun x => x.2.2.1) h.rest

theorem Keeps.cycle (h : Keeps lo hi s t) : t.cycle = s.cycle := congrArg (fun x => x.2.2.2.1) h.rest

theorem Keeps.running (h : Keeps lo hi s t) : t.running = s.running := congrArg (fun x => x.2.2.2.2.1) h.rest

theorem Keeps.area (h : Keeps lo hi s t) : t.area = s.area := congrArg (fun x => x.2.2.2.2.2.1) h.rest

theorem Keeps.standalone (h : Keeps lo hi s t) : t.tick.standalone = s.tick.standalone :=
  congrArg (fun x => x.2.2.2.2.2.2.1) h.rest

theorem Keeps.expired (h : Keeps lo hi s t) : t.tick.expired = s.tick.expired :=
  congrArg (fun x => x.2.2.2.2.2.2.2.1) h.rest

theorem Keeps.serving (h : Keeps lo hi s t) : t.header.serving = s.header.serving :=
  congrArg (fun x => x.2.2.2.2.2.2.2.2.1) h.rest

theorem Keeps.netCore (h : Keeps lo hi s t) : Laws.netCore t.nh = Laws.netCore s.nh :=
  congrArg (fun x => x.2.2.2.2.2.2.2.2.2.1) h.rest

theorem Keeps.seatCore (h : Keeps lo hi s t) : Laws.seatCore t.sh = Laws.seatCore s.sh :=
  congrArg (fun x => x.2.2.2.2.2.2.2.2.2.2) h.rest

theorem Keeps.lock (h : Keeps lo hi s t) : t.nh.lock = s.nh.lock := by
  have k := congrArg NetPort.lock h.netCore
  exact k

theorem Keeps.rx (h : Keeps lo hi s t) : t.nh.rx = s.nh.rx := by
  have k := congrArg NetPort.rx h.netCore
  exact k

theorem Keeps.tx (h : Keeps lo hi s t) : t.nh.tx = s.nh.tx := by
  have k := congrArg NetPort.tx h.netCore
  exact k

theorem Keeps.consecutive (h : Keeps lo hi s t) : t.nh.consecutive = s.nh.consecutive := by
  have k := congrArg NetPort.consecutive h.netCore
  exact k

theorem Keeps.ys (h : Keeps lo hi s t) : t.nh.ys = s.nh.ys := by
  have k := congrArg NetPort.ys h.netCore
  exact k

theorem Keeps.fault (h : Keeps lo hi s t) : t.nh.fault = s.nh.fault := by
  have k := congrArg NetPort.fault h.netCore
  exact k

theorem Keeps.mics (h : Keeps lo hi s t) : t.sh.mics = s.sh.mics := by
  have k := congrArg SeatPort.mics h.seatCore
  exact k

theorem Keeps.slots (h : Keeps lo hi s t) : t.sh.slots = s.sh.slots := by
  have k := congrArg SeatPort.slots h.seatCore
  exact k

theorem Keeps.refl (s : State) : Keeps lo hi s s := ⟨rfl, .refl _⟩

theorem Keeps.trans (h : Keeps lo hi s t) (k : Keeps lo hi t u) : Keeps lo hi s u :=
  ⟨k.rest.trans h.rest, h.bus.trans k.bus⟩

/-- A change that leaves the bus side alone too. -/
theorem Keeps.of_eq (hr : unscanned t = unscanned s) (hi' : t.io = s.io) : Keeps lo hi s t :=
  ⟨hr, hi' ▸ .refl _⟩

/-- Either branch of a choice. -/
theorem Keeps.ite {p : Prop} [Decidable p] (ht : Keeps lo hi s t) (hu : Keeps lo hi s u) :
    Keeps lo hi s (if p then t else u) := by
  split
  · exact ht
  · exact hu

/-- Going on within the window of the state reached. -/
theorem Keeps.andThen (h : Keeps (winLo s) (winHi s) s t) (k : Keeps (winLo t) (winHi t) t u) :
    Keeps (winLo s) (winHi s) s u :=
  h.trans (by simpa [winLo, winHi, h.regs] using k)

end

section

variable {lo hi : Nat}

theorem keeps_foldl {α : Type} {f : State → α → State} (h : ∀ s a, Keeps lo hi s (f s a)) (l : List α) (s : State) :
    Keeps lo hi s (l.foldl f s) := by
  induction l generalizing s with
  | nil => exact .refl _
  | cons a l ih => exact (h s a).trans (ih _)

/-! ## The named updates -/

theorem setIo_keeps {s : State} {io : Io} (h : BusReach lo hi s.io io) : Keeps lo hi s (s.setIo io) :=
  ⟨rfl, h⟩

theorem hand_keeps (s : State) (c : Code) (src : Source) (d0 d1 d2 : Word) : Keeps lo hi s (s.hand c src d0 d1 d2) :=
  setIo_keeps (.hand ..)

theorem modSeat_keeps (s : State) (k : SeatNo) (f : Seat → Seat) : Keeps lo hi s (s.modSeat k f) := .of_eq rfl rfl

theorem modStream_keeps (s : State) (j : StreamNo) (f : Stream → Stream) : Keeps lo hi s (s.modStream j f) :=
  .of_eq rfl rfl

theorem modAdopted_keeps (s : State) (k : SeatNo) (f : Settings → Settings) : Keeps lo hi s (s.modAdopted k f) :=
  modSeat_keeps ..

theorem modDue_keeps (s : State) (k : SeatNo) (f : Due → Due) : Keeps lo hi s (s.modDue k f) := modSeat_keeps ..

/-! ## The Tail Pool -/

theorem releaseTail_keeps (s : State) (k : SeatNo) (n : Nat) : Keeps lo hi s (s.releaseTail k n) := .of_eq rfl rfl

theorem grantTail_keeps (s : State) (k : SeatNo) (n : Nat) : Keeps lo hi s (s.grantTail k n) := .of_eq rfl rfl

theorem setWaiting_keeps (s : State) (k : SeatNo) (w : Bool) : Keeps lo hi s (s.setWaiting k w) := modSeat_keeps ..

theorem poolShort_keeps (s : State) (k : SeatNo) (e : Echo) : Keeps lo hi s (s.poolShort k e) := hand_keeps ..

theorem requestTail_keeps (s : State) (k : SeatNo) (loud : Bool) : Keeps lo hi s (s.requestTail k loud) := by
  unfold State.requestTail
  dsimp only
  split
  · exact (grantTail_keeps ..).trans (setWaiting_keeps ..)
  · split
    · exact (setWaiting_keeps ..).trans (poolShort_keeps ..)
    · exact setWaiting_keeps ..

theorem retryTail_keeps (s : State) (k : SeatNo) : Keeps lo hi s (s.retryTail k) :=
  .ite (requestTail_keeps ..) (.refl _)

theorem growTail_keeps (s : State) (k : SeatNo) : Keeps lo hi s (s.growTail k) :=
  .ite (grantTail_keeps ..) (poolShort_keeps ..)

theorem dropTail_keeps (s : State) (k : SeatNo) : Keeps lo hi s (s.dropTail k) :=
  (releaseTail_keeps ..).trans (setWaiting_keeps ..)

/-! ## Routing -/

theorem leaveTarget_keeps (s : State) (k : SeatNo) : Keeps lo hi s (s.leaveTarget k) := by
  unfold State.leaveTarget
  split
  · exact .refl _
  · exact (modAdopted_keeps ..).trans (modAdopted_keeps ..)

theorem attach_keeps (s : State) (k t : SeatNo) (kind : Kind) (ptt : Bool) : Keeps lo hi s (s.attach k t kind ptt) :=
  (modAdopted_keeps ..).trans (modAdopted_keeps ..)

theorem reattach_keeps (s : State) (k t : SeatNo) (kind : Kind) (ptt : Bool) :
    Keeps lo hi s (s.reattach k t kind ptt) := modAdopted_keeps ..

theorem detachOne_keeps (t : SeatNo) (cause : Word) (s : State) (a : Attachment) :
    Keeps lo hi s (detachOne t cause s a) := (modAdopted_keeps ..).trans (hand_keeps ..)

theorem detachAll_keeps (s : State) (t : SeatNo) (cause : Word) : Keeps lo hi s (s.detachAll t cause) :=
  (keeps_foldl (detachOne_keeps t cause) _ s).trans (modAdopted_keeps ..)

theorem freeSlots_keeps (s : State) (k : SeatNo) (keep : Option Nat) : Keeps lo hi s (s.freeSlots k keep) :=
  .of_eq rfl rfl

theorem claimSlot_keeps (s : State) (k : SeatNo) (n : Nat) : Keeps lo hi s (s.claimSlot k n) := by
  unfold State.claimSlot
  split
  · exact .of_eq rfl rfl
  · exact .refl _

theorem joinHold_keeps (s : State) (n : Nat) : Keeps lo hi s (s.joinHold n) := by
  unfold State.joinHold
  split
  · exact modStream_keeps ..
  · exact .refl _

theorem leaveHold_keeps (s : State) (n : Nat) : Keeps lo hi s (s.leaveHold n) := by
  unfold State.leaveHold
  split
  · exact modStream_keeps ..
  · exact .refl _

theorem enterHold_keeps (s : State) (k : SeatNo) : Keeps lo hi s (s.enterHold k) :=
  .ite ((joinHold_keeps ..).trans (modDue_keeps ..)) (joinHold_keeps ..)

theorem exitHold_keeps (s : State) (k : SeatNo) (old : Settings) : Keeps lo hi s (s.exitHold k old) :=
  .ite ((leaveHold_keeps ..).trans (modDue_keeps ..)) (.refl _)

theorem leaveCall_keeps (s : State) (k : SeatNo) (old : Settings) : Keeps lo hi s (s.leaveCall k old) :=
  .ite (((exitHold_keeps ..).trans (freeSlots_keeps ..)).trans (dropTail_keeps ..)) (.refl _)

theorem enterIdle_keeps (s : State) (k : SeatNo) (old : Settings) : Keeps lo hi s (s.enterIdle k old) := by
  unfold State.enterIdle
  dsimp only
  refine .trans ?_ (modDue_keeps ..)
  have h := leaveCall_keeps (lo := lo) (hi := hi) s k old
  have g : Keeps lo hi s (if old.routing.mode.holdsSlot then (s.leaveCall k old).detachAll k 1 else s.leaveCall k old) :=
    .ite (h.trans (detachAll_keeps ..)) h
  exact .ite (g.trans (leaveTarget_keeps ..)) g

theorem exitIdle_keeps (s : State) (k : SeatNo) (old : Settings) : Keeps lo hi s (s.exitIdle k old) :=
  .ite (modDue_keeps ..) (.refl _)

theorem enterCall_keeps (s : State) (k : SeatNo) (old : Settings) (r : Routing) :
    Keeps lo hi s (s.enterCall k old r).1 := by
  unfold State.enterCall
  dsimp only
  have h : Keeps lo hi s ((if old.routing.mode = .supervise then s.leaveTarget k else s).claimSlot k (r.nhSlot.getD 32)) :=
    .trans (.ite (leaveTarget_keeps ..) (.refl _)) (claimSlot_keeps ..)
  generalize (if old.routing.mode = .supervise then s.leaveTarget k else s).claimSlot k (r.nhSlot.getD 32) = t at h ⊢
  have g : Keeps lo hi s ((if t.seats[k].adopted.echo.enable then t.requestTail k true else t).exitIdle k old) :=
    .trans (.ite (h.trans (requestTail_keeps ..)) h) (exitIdle_keeps ..)
  exact .ite (g.trans (enterHold_keeps ..)) g

theorem changeHold_keeps (s : State) (k : SeatNo) (old : Settings) (r : Routing) :
    Keeps lo hi s (s.changeHold k old r) := by
  unfold State.changeHold
  split
  · exact enterHold_keeps ..
  · exact exitHold_keeps ..
  · exact .ite (.refl _) ((leaveHold_keeps ..).trans (joinHold_keeps ..))
  · exact .refl _

theorem moveSlot_keeps (s : State) (k : SeatNo) (old : Settings) (r : Routing) :
    Keeps lo hi s (s.moveSlot k old r) := .ite (.refl _) ((claimSlot_keeps ..).trans (freeSlots_keeps ..))

theorem stayInCall_keeps (s : State) (k : SeatNo) (old : Settings) (r : Routing) :
    Keeps lo hi s (s.stayInCall k old r) := (changeHold_keeps ..).trans (moveSlot_keeps ..)

theorem supervise_keeps (s : State) (k : SeatNo) (old : Settings) (r : Routing) :
    Keeps lo hi s (s.supervise k old r) := by
  unfold State.supervise
  split
  · split
    · exact .ite (.ite (reattach_keeps ..) ((leaveTarget_keeps ..).trans (attach_keeps ..)))
        (((leaveCall_keeps ..).trans (exitIdle_keeps ..)).trans (attach_keeps ..))
    · exact .refl _
  · exact .refl _

theorem applyRouting_keeps (s : State) (k : SeatNo) (old : Settings) (r : Routing) :
    Keeps lo hi s (s.applyRouting k old r).1 := by
  unfold State.applyRouting
  dsimp only
  have h := modAdopted_keeps (lo := lo) (hi := hi) s k fun g => { g with routing := r }
  generalize (s.modAdopted k fun g => { g with routing := r }) = t at h ⊢
  have g : Keeps lo hi s (if old.routing.keyMuteAllowed && !r.keyMuteAllowed then
      t.modDue k fun d => { d with clearKeyMute := true } else t) := .ite (h.trans (modDue_keeps ..)) h
  generalize (if old.routing.keyMuteAllowed && !r.keyMuteAllowed then
      t.modDue k fun d => { d with clearKeyMute := true } else t) = u at g ⊢
  split
  · exact .ite g (g.trans (enterIdle_keeps ..))
  · exact g.trans (supervise_keeps ..)
  · split
    · exact g.trans (stayInCall_keeps ..)
    · exact g.trans (enterCall_keeps ..)
  · split
    · exact g.trans (stayInCall_keeps ..)
    · exact g.trans (enterCall_keeps ..)

/-! ## Seat records -/

theorem resizeTail_keeps (s : State) (k : SeatNo) (old : Nat) : Keeps lo hi s (s.resizeTail k old) :=
  .ite (releaseTail_keeps ..) (.ite (growTail_keeps ..) (.refl _))

theorem applyEcho_keeps (s : State) (k : SeatNo) (old new : Echo) (clear asked : Bool) :
    Keeps lo hi s (s.applyEcho k old new clear asked).1 := by
  unfold State.applyEcho
  split
  · split
    · split
      · exact requestTail_keeps ..
      · exact .ite ((resizeTail_keeps ..).trans (modDue_keeps ..)) (resizeTail_keeps ..)
    · exact dropTail_keeps ..
  · exact .refl _

theorem applyCadence_keeps (s : State) (k : SeatNo) (old new : Cadence) (restart : Bool) :
    Keeps lo hi s (s.applyCadence k old new restart) := by
  unfold State.applyCadence
  exact modDue_keeps ..

theorem applyCancel_keeps (s : State) (k : SeatNo) (all : Bool) (cell : Nat) :
    Keeps lo hi s (s.applyCancel k all cell) := modSeat_keeps ..

theorem takeEdition_keeps (s : State) (k : SeatNo) (edition : Word) : Keeps lo hi s (s.takeEdition k edition) :=
  modSeat_keeps ..

theorem adoptSeat_keeps (s : State) (k : SeatNo) (edition : Word) (r : SeatRecord) :
    Keeps lo hi s (s.adoptSeat k edition r).1 := by
  unfold State.adoptSeat
  dsimp only
  refine .trans ?_ (takeEdition_keeps ..)
  have h := modAdopted_keeps (lo := lo) (hi := hi) s k (storeGroups r)
  generalize s.modAdopted k (storeGroups r) = t at h ⊢
  have g : Keeps lo hi s (if r.namesRouting then t.applyRouting k s.seats[k].adopted r.routing.adopt else (t, false)).1 := by
    split
    · exact h.trans (applyRouting_keeps ..)
    · exact h
  generalize (if r.namesRouting then t.applyRouting k s.seats[k].adopted r.routing.adopt else (t, false)) = x at g ⊢
  have f : Keeps lo hi s (if r.namesEcho then x.1.applyEcho k s.seats[k].adopted.echo r.echo r.clearTaps x.2 else x).1 := by
    split
    · exact g.trans (applyEcho_keeps ..)
    · exact g
  generalize (if r.namesEcho then x.1.applyEcho k s.seats[k].adopted.echo r.echo r.clearTaps x.2 else x) = y at f ⊢
  have c : Keeps lo hi s (if r.namesCadence then
      y.1.applyCadence k s.seats[k].adopted.cadence r.cadence r.restart else y.1) :=
    .ite (f.trans (applyCadence_keeps ..)) f
  exact .ite (c.trans (applyCancel_keeps ..)) c

theorem takeSeat_keeps (s : State) (k : SeatNo) (edition : Word) (r : SeatRecord) :
    Keeps lo hi s (s.takeSeat k edition r) := by
  unfold State.takeSeat
  split
  · exact ((takeEdition_keeps ..).trans (hand_keeps ..)).trans (retryTail_keeps ..)
  · exact .ite (adoptSeat_keeps ..) ((adoptSeat_keeps ..).trans (retryTail_keeps ..))

theorem readEdition_reach (e : Env) (src : Source) (a : Nat) (old : Option Word) (io : Io) :
    BusReach lo hi io (readEdition e src a old io).2 := readReporting_reach ..

theorem readWhole_reach (e : Env) (src : Source) (a : Nat) (ed : Word) (ws : List Nat) (io : Io) :
    BusReach lo hi io (readWhole e src a ed ws io).2 := .trans (readRecord_reach ..) (readReporting_reach ..)

theorem placeSeat_keeps (s : State) (k : SeatNo) (edition : Word) (ws : Option (List Word)) :
    Keeps lo hi s (s.placeSeat k edition ws) := by
  cases ws with
  | none => exact retryTail_keeps ..
  | some ws => exact takeSeat_keeps ..

theorem seatPlace_keeps (s : State) (x : SeatNo × Option Word) : Keeps lo hi s (seatPlace s x) := by
  unfold seatPlace
  split
  · exact retryTail_keeps ..
  · next ed _ =>
    have h : Keeps lo hi s (s.setIo (readSeat s x.1 ed).2) := setIo_keeps (readWhole_reach ..)
    exact h.trans (placeSeat_keeps ..)

theorem placeStream_keeps (s : State) (j : StreamNo) (edition : Word) (ws : Option (List Word)) :
    Keeps lo hi s (s.placeStream j edition ws) := by
  cases ws with
  | none => exact .refl _
  | some ws => exact modStream_keeps ..

theorem streamPlace_keeps (s : State) (x : StreamNo × Option Word) : Keeps lo hi s (streamPlace s x) := by
  unfold streamPlace
  split
  · exact .refl _
  · next ed _ =>
    have h : Keeps lo hi s (s.setIo (readStream s x.1 ed).2) := setIo_keeps (readWhole_reach ..)
    exact h.trans (placeStream_keeps ..)

/-! ## The header and the scans -/

theorem leaveService_keeps (s : State) (k : SeatNo) : Keeps lo hi s (s.leaveService k) := by
  unfold State.leaveService
  exact (modAdopted_keeps s k _).trans ((enterIdle_keeps _ k _).trans (modSeat_keeps ..))

theorem adoptHeader_keeps (s : State) (edition : Word) (h : HeaderRecord) : Keeps lo hi s (s.adoptHeader edition h) := by
  unfold State.adoptHeader
  exact (keeps_foldl leaveService_keeps _ s).trans (.of_eq rfl rfl)

theorem takeHeader_keeps (s : State) (edition : Word) (h : HeaderRecord) : Keeps lo hi s (s.takeHeader edition h) :=
  .ite (adoptHeader_keeps ..) (.of_eq rfl rfl)

theorem placeHeader_keeps (s : State) (edition : Word) (ws : Option (List Word)) :
    Keeps lo hi s (s.placeHeader edition ws) := by
  cases ws with
  | none => exact .refl _
  | some ws => exact takeHeader_keeps ..

theorem readHeader_keeps (s : State) (edition : Option Word) : Keeps lo hi s (s.readHeader edition) := by
  cases edition with
  | none => exact .refl _
  | some ed =>
    have h : Keeps lo hi s (s.setIo
        (readWhole s.env .header (headerEditionAt s) ed (headerWords s.area.toNat) s.io).2) :=
      setIo_keeps (readWhole_reach ..)
    exact h.trans (placeHeader_keeps ..)

theorem scanHeader_keeps (s : State) : Keeps lo hi s s.scanHeader := by
  have h : Keeps lo hi s (s.setIo (readEdition s.env .header (headerEditionAt s) s.header.edition s.io).2) :=
    setIo_keeps (readEdition_reach ..)
  exact h.trans (readHeader_keeps ..)

theorem seatEdition_keeps (x : List (SeatNo × Option Word) × State) (k : SeatNo) :
    Keeps lo hi x.2 (seatEdition x k).2 := setIo_keeps (readEdition_reach ..)

theorem streamEdition_keeps (x : List (StreamNo × Option Word) × State) (j : StreamNo) :
    Keeps lo hi x.2 (streamEdition x j).2 := setIo_keeps (readEdition_reach ..)

/-- A fold that carries a state beside something else. -/
theorem keeps_foldl_snd {α β : Type} {f : β × State → α → β × State} (h : ∀ x a, Keeps lo hi x.2 (f x a).2)
    (l : List α) (x : β × State) : Keeps lo hi x.2 (l.foldl f x).2 := by
  induction l generalizing x with
  | nil => exact .refl _
  | cons a l ih => exact (h x a).trans (ih _)

theorem readSeatEditions_keeps (s : State) : Keeps lo hi s (readSeatEditions s).2 :=
  keeps_foldl_snd seatEdition_keeps _ ([], s)

theorem readStreamEditions_keeps (s : State) : Keeps lo hi s (readStreamEditions s).2 :=
  keeps_foldl_snd streamEdition_keeps _ ([], s)

theorem retries_keeps (s : State) : Keeps lo hi s s.retries := keeps_foldl retryTail_keeps _ s

theorem adoptionScan_keeps (s : State) : Keeps lo hi s s.adoptionScan := by
  unfold State.adoptionScan
  dsimp only
  refine .trans (scanHeader_keeps s) ?_
  refine .ite (retries_keeps ..) ?_
  refine .trans (readSeatEditions_keeps s.scanHeader) ?_
  refine .trans (readStreamEditions_keeps _) ?_
  exact (keeps_foldl seatPlace_keeps _ _).trans (keeps_foldl streamPlace_keeps _ _)

theorem scanSeatCells_keeps (s : State) (k : SeatNo) : Keeps lo hi s (scanSeatCells s k) := by
  unfold scanSeatCells
  exact .trans (modSeat_keeps ..) (setIo_keeps (scanCells_reach ..))

theorem cellScan_keeps (s : State) : Keeps lo hi s s.cellScan := keeps_foldl scanSeatCells_keeps _ s

theorem scans_keeps (s : State) : Keeps lo hi s s.scans :=
  .ite (retries_keeps s) ((adoptionScan_keeps s).trans (cellScan_keeps _))

end

/-! ## The boundary -/

theorem seatWork_keeps (s0 : State) (k : SeatNo) (s : State) : Keeps (winLo s) (winHi s) s (seatWork s0 k s) := by
  unfold seatWork
  refine ⟨rfl, ?_⟩
  dsimp only
  split
  · exact frameWorkSeat_reach s.env ..
  · exact idleSeat_reach s.env ..

theorem unitWork_keeps (s0 s : State) (w : Worker) : Keeps (winLo s) (winHi s) s (unitWork s0 s w) := by
  cases w with
  | seat k => exact seatWork_keeps s0 k s
  | stream j => exact ⟨rfl, fetchStream_reach ..⟩

theorem unitBacks_keeps (s : State) (w : Worker) : Keeps (winLo s) (winHi s) s (unitBacks s w) := by
  cases w with
  | seat k => exact .refl _
  | stream j => exact ⟨rfl, writeBacks_reach s.env ..⟩

theorem unitReport_keeps (s : State) (w : Worker) : Keeps (winLo s) (winHi s) s (unitReport s w) := by
  cases w with
  | seat k => exact .refl _
  | stream j => exact .ite (.refl _) ⟨rfl, writeStreamReport_reach s.env ..⟩

theorem writePartTick_keeps (s : State) : Keeps (winLo s) (winHi s) s s.writePartTick :=
  ⟨rfl, writeRecord_reach s.env ..⟩

theorem serveFrame_keeps (s : State) : Keeps (winLo s) (winHi s) s (s.setIo (serveNotices s.env (heldReads s.env s.io))) :=
  setIo_keeps (.trans (heldReads_reach ..) (serveNotices_reach s.env _))

theorem mapSeats_keeps (s : State) (f : Seat → Seat) : Keeps (winLo s) (winHi s) s (s.mapSeats f) :=
  .of_eq (by simp [unscanned]) (mapSeats_io ..)

theorem mapStreams_keeps (s : State) (f : Stream → Stream) : Keeps (winLo s) (winHi s) s (s.mapStreams f) :=
  .of_eq (by simp [unscanned]) (mapStreams_io ..)

/-- A fold of works. -/
theorem works_foldl {α : Type} {f : State → α → State} (h : ∀ s a, Keeps (winLo s) (winHi s) s (f s a)) (l : List α)
    (s : State) : Keeps (winLo s) (winHi s) s (l.foldl f s) := by
  induction l generalizing s with
  | nil => exact .refl _
  | cons a l ih => exact (h s a).andThen (ih _)

theorem frameWork_keeps (s : State) (order : List Worker) : Keeps (winLo s) (winHi s) s (s.frameWork order) := by
  unfold State.frameWork
  dsimp only
  refine .andThen (works_foldl (unitWork_keeps s) (workersOf order) s) ?_
  refine .andThen (works_foldl unitBacks_keeps (workersOf order) _) ?_
  refine .andThen (works_foldl unitReport_keeps (workersOf order) _) ?_
  refine .andThen (writePartTick_keeps _) ?_
  refine .andThen (serveFrame_keeps _) (.of_eq ?_ rfl)
  simp only [unscanned, TickMonitor.endFrame]
  split <;> rfl

/-! ## The boundary as a whole -/

/-- `Reaches s t`: the queue and the registers stand, and the bus side is reached within the write window. -/
structure Reaches (s t : State) : Prop where
  pending : t.pending = s.pending
  regs : t.regs = s.regs
  bus : BusReach (winLo s) (winHi s) s.io t.io

theorem Keeps.reaches {s t : State} (h : Keeps (winLo s) (winHi s) s t) : Reaches s t := ⟨h.pending, h.regs, h.bus⟩

theorem Reaches.refl (s : State) : Reaches s s := (Keeps.refl s).reaches

theorem Reaches.trans {s t u : State} (h : Reaches s t) (k : Reaches t u) : Reaches s u :=
  ⟨k.pending.trans h.pending, k.regs.trans h.regs, h.bus.trans (by simpa [winLo, winHi, h.regs] using k.bus)⟩

/-- A change that leaves the queue, the registers and the bus side alone. -/
theorem Reaches.of_eq {s t : State} (hp : t.pending = s.pending) (hr : t.regs = s.regs) (hi : t.io = s.io) :
    Reaches s t := ⟨hp, hr, hi ▸ .refl _⟩

theorem Reaches.ite {s t u : State} {p : Prop} [Decidable p] (ht : Reaches s t) (hu : Reaches s u) :
    Reaches s (if p then t else u) := by
  split
  · exact ht
  · exact hu

theorem actOnRun_reaches (s : State) : Reaches s s.actOnRun :=
  .ite (.ite (.refl _) (.of_eq rfl rfl rfl)) (.ite (.of_eq rfl rfl rfl) (.refl _))

theorem monitorTick_reaches (s : State) : Reaches s s.monitorTick := by
  unfold State.monitorTick
  dsimp only
  have h : Reaches s { s.setIo (readReporting s.env .header 0 (s.area.toNat + Config.headerAt + 0x24) s.io).2 with
      tick := s.tick.observe (readReporting s.env .header 0 (s.area.toNat + Config.headerAt + 0x24) s.io).1 } :=
    ⟨rfl, rfl, readReporting_reach ..⟩
  exact .ite (h.trans (hand_keeps ..).reaches) h

theorem enterStandalone_reaches (s : State) : Reaches s s.enterStandalone := by
  unfold State.enterStandalone
  dsimp only
  refine .trans ?_ (mapSeats_keeps ..).reaches
  refine .trans ?_ (keeps_foldl (fun x k => detachAll_keeps x k 2) _ _).reaches
  have h : Reaches s { s with tick := { s.tick with standalone := true, aloneFrames := 0 } } := .of_eq rfl rfl rfl
  exact h.trans (hand_keeps ..).reaches

theorem expire_reaches (s : State) : Reaches s s.expire := by
  unfold State.expire
  dsimp only
  have h : Reaches s { s with tick := { s.tick with expired := false } } := .of_eq rfl rfl rfl
  exact .ite h (.ite (h.trans (enterStandalone_reaches _)) (h.trans (hand_keeps ..).reaches))

theorem expireAndScan_reaches (s : State) : Reaches s s.expireAndScan := (expire_reaches s).trans (scans_keeps _).reaches

theorem openWork_reaches (s : State) : Reaches s s.openWork := by
  unfold State.openWork
  dsimp only
  have p : Reaches s s.promote := .of_eq rfl rfl rfl
  have h : Reaches s s.promote.monitorTick := p.trans (monitorTick_reaches _)
  exact .ite h (h.trans (scans_keeps _).reaches)

/-- The frame boundary leaves the queue and the registers alone, and its bus side is reached within the window. -/
theorem boundary_reaches (s : State) (order : List Worker) : Reaches s (s.boundary order) := by
  unfold State.boundary
  dsimp only
  have h : Reaches s s.settleExpiry := .ite (expireAndScan_reaches s) (.refl s)
  generalize s.settleExpiry = t at h ⊢
  have g : Reaches s (if t.running then t.frameWork order else t) := .ite (h.trans (frameWork_keeps ..).reaches) h
  generalize (if t.running then t.frameWork order else t) = u at g ⊢
  have n : Reaches u u.nextFrame := .of_eq rfl rfl rfl
  have f : Reaches s u.nextFrame.actOnRun := (g.trans n).trans (actOnRun_reaches _)
  exact .ite (f.trans (openWork_reaches _)) f

/-! ## The events of the highways -/

theorem seatCycle_reaches (s : State) (up : Vector Word 32) : Reaches s (s.seatCycle up) :=
  ⟨rfl, rfl, handAll_reach ..⟩

end Sys2Proof.Laws
end

