-- ==== Sys2Proof/Tests/Slice0.lean ====
section
/-! SUPPORT. Tests on small states: the well-formedness checks, the worked figures of the spec, each command once or
twice, and for every obligation with hypotheses a state and operands that meet them. -/

namespace Sys2Proof.Tests

set_option Elab.async false

open Sys2Proof.Machine

/-- The state a command leaves. -/
def after (i : Instr) (s : State) : State :=
  match exec i s with
  | .next t => t
  | _ => s

/-- Commands one after another. -/
def run (is : List Instr) (s : State) : State := is.foldl (fun s i => after i s) s

/-- No access meets a host write or a bus error. -/
def bus : Env := { frame := 7, running := true, area := 0x10000, lo := 0x10000, hi := 0x14000 }

/-! ## Well-formedness: an ill-formed term for each check, and decoding -/

theorem test_wf_control : (Instr.run 3).wf = false ∧ (Instr.enableMask 0x102).wf = false := by decide

theorem test_wf_clear : (Instr.windowFaultClear 7).wf = false := by decide

theorem test_wf_cycle_start : (Instr.cycleStart 0).wf = false := by decide

theorem test_wf_sync_short : (Instr.syncTest [true]).wf = false := by decide

theorem test_wf_sync_long : (Instr.syncTest (List.replicate 4098 false)).wf = false := by decide +kernel

theorem test_wf_order_missing : (Instr.frameBoundary [] [.seat 3]).wf = false := by decide +kernel

theorem test_wf_order_twice : (Instr.frameBoundary [] (.seat 3 :: allWorkers)).wf = false := by decide +kernel

theorem test_wf_good : (Instr.frameBoundary [] allWorkers).wf = true ∧ (Instr.run 1).wf = true ∧
    (Instr.windowFaultClear 8).wf = true ∧ (Instr.cycleStart 1536).wf = true ∧
    (Instr.syncTest (List.replicate 257 false)).wf = true := by decide +kernel

/-- No row of the table has bits, so no word spells a command. -/
theorem test_decode_none : decodeTableWord 32 0x00000001 = none := rfl

/-! ## Worked figures of the spec -/

/-- Section 0.4: 1000 by 8192 gives 500, −1 by 8192 gives 0. -/
theorem test_multiply_and_round : mulRound 1000 8192 = 500 ∧ mulRound (-1) 8192 = 0 := by decide

/-- Section 2.3.1: the estimate 1100, and the saturated error. -/
theorem test_worked_estimate : estimate [4194304, -1048576, 0] [2000, -800, 55] = 1100 ∧
    saturate (-32768 - 32767) = -32768 := by decide

/-- Section 2.5.1: g is 125,962, and taps gain and lose 984,078, one of them saturating. -/
theorem test_worked_update : stepGain 4 1000 1000000 = 125962 ∧ updateTap 125962 0 2000 = 984078 ∧
    updateTap (stepGain 4 (-1000) 1000000) 0 2000 = -984078 ∧ updateTap 125962 8000000 2000 = 8388607 := by decide

/-- The NOISE settings of section 3.3.1. -/
def workedNoise : Noise :=
  { enable := true, gainTable := #v[2048, 4096, 8192, 12288, 16384, 16384, 16384, 16384], floorRiseShift := 6,
    releaseStep := 2048, vadBand := 2, vadHangover := 1 }

/-- A frame whose mean square is 9000 (720,000 over 80), starting with 1000 and −1000 scaled down to fit it. -/
def attackFrame : List Sample := 600 :: -600 :: List.replicate 78 0

/-- Section 3.3.1: band 3, gain 12288, floor 1016; the ramp's first samples applied. -/
theorem test_worked_attack :
    meanSquare attackFrame = 9000 ∧
    (presentFrame workedNoise { Suppressor.reset with floor := 1000, gain := 4096 } attackFrame).1 =
      { floor := 1016, gain := 12288, band := 3, voice := true, hangover := 1, initDue := false } ∧
    rampAt 4096 12288 0 = 4198 ∧ rampAt 4096 12288 1 = 4300 ∧ rampAt 4096 12288 39 = 8192 ∧
    suppressSample 1000 4198 = 256 ∧ suppressSample (-1000) 4300 = -262 := by decide +kernel

/-- Section 3.3.2: the release by 2048. -/
theorem test_worked_release : bandOf 1200 1016 = 0 ∧ appliedGain 2048 2048 12288 = 10240 ∧
    rampAt 12288 10240 0 = 12263 ∧ rampAt 12288 10240 79 = 10240 ∧ nextFloor 6 1200 1016 = 1032 := by decide

/-- Table 3-2: the band edges at a floor of 1000. -/
theorem test_band_edges : bandOf 1999 1000 = 0 ∧ bandOf 2000 1000 = 1 ∧ bandOf 15999 1000 = 3 ∧
    bandOf 127999 1000 = 6 ∧ bandOf 128000 1000 = 7 := by decide

/-- Section 4.6.1: the duck ramp and the effective gains. -/
theorem test_worked_duck : rampAt 16384 4096 0 = 16231 ∧ rampAt 16384 4096 39 = 10240 ∧
    rampAt 16384 4096 79 = 4096 ∧ effectiveGain 12000 16384 4096 0 = 11888 ∧
    effectiveGain 12000 16384 4096 39 = 7500 ∧ effectiveGain 12000 16384 4096 79 = 3000 ∧
    rampAt 4096 16384 0 = 4249 := by decide

/-- Section 8.3.1: the worked mix samples. -/
theorem test_worked_mix : busSample (20000 * 8192 + 18000 * 16384) = 28000 ∧
    busSample (-1000 * 11888 + 500 * 16384 + 300 * 1638) = -196 ∧ busSample (12000 * 8192) = 6000 ∧
    busSample (30000 * 24576 + 10000 * 16384) = 32767 ∧ busSample (-901120000) = -32768 := by decide

/-- Table 8-3: the edges of saturation. -/
theorem test_saturation_edges : clipped 536862719 = false ∧ clipped 536862720 = true ∧
    clipped (-536879104) = false ∧ clipped (-536879105) = true := by decide

/-- Section 9.4.1: 10 samples leave PRESENT at 0 with a count of 10, and 6 more complete the change. -/
theorem test_worked_debounce :
    (List.replicate 10 true).foldl (fun d b => d.sampled b) Debounce.reset = { value := false, count := 10 } ∧
    ((List.replicate 16 true).foldl (fun d b => d.sampled b) Debounce.reset).settled =
      { value := true, count := 0 } := by decide

/-- The check register over the nine bytes of the text 123456789, a known value of this polynomial and start:
29B1h. -/
theorem test_check_known_value :
    (([0x3132, 0x3334, 0x3536, 0x3738] : List Half).foldl checkSample 0xFFFF#16 |> fun r =>
      (List.range 8).foldl (fun r i => checkBit r ((0x39#8).getLsbD (7 - i))) r) = 0x29B1#16 := by decide +kernel

/-- A port in HUNT with the cycle length of section 9.5.1. -/
def hunting : NetPort :=
  { NetPort.reset with lock := .hunt, current := { NetSettings.reset with enable := true,
                                                                          divider := ⟨1, false, 1536⟩ } }

/-- Table 9-4, its first five rows: the early second sync starts a new run, and the fifth start locks. -/
theorem test_worked_lock :
    ((seeCycleStart true 1535 (seeCycleStart true 9 hunting).1).1).run = 1 ∧
    ((List.replicate 2 1536).foldl (fun p b => (seeCycleStart true b p).1) { hunting with run := 1 }).lock = .hunt ∧
    (([1536, 1536, 1536].foldl (fun p b => (seeCycleStart true b p).1) { hunting with run := 1 }).rx.length = 32) ∧
    ([1536, 1536, 1536].foldl (fun p b => (seeCycleStart true b p).1) { hunting with run := 1 }).lock = .locked := by
  decide +kernel

/-- A LOCKED port in FOLLOW; its cycles are of 8 bits here, so that their sync bits can be written out. -/
def following : NetPort :=
  { hunting with lock := .locked, current := { hunting.current with divider := ⟨1, false, 8⟩ } }

/-- The sync line of a cycle of 8 bits with one active bit, and the first bit of the next. -/
def syncAt (n : Nat) : List Bool := (List.range 9).map fun i => decide (i = n)

/-- Table 9-4, its last five rows: one miss is ridden through, a late sync counts as a miss, two in a row lose lock. -/
theorem test_worked_loss :
    ([syncAt 7, syncAt 99, syncAt 7].foldl (fun p b => (testSync b p).1) following).miss = 0 ∧
    ([syncAt 2, syncAt 99].foldl (fun p b => (testSync b p).1) following).lock = .hunt := by
  decide +kernel

/-- Section 2.8.1, steps 1 and 2: the blocks released by one seat are the lowest free ones, which the next takes. -/
theorem test_worked_tail_pool :
    let s : State := (State.reset.modSeat 3 fun x => { x with blocks := List.range 12 })
    let s : State := { s with pool := (List.range 16).map (240 + ·) }
    let t := s.releaseTail 3 8
    t.pool = [8, 9, 10, 11] ++ (List.range 16).map (240 + ·) ∧ t.seats[(3 : SeatNo)].blocks = List.range 8 ∧
    (t.grantTail 5 16).seats[(5 : SeatNo)].blocks = [8, 9, 10, 11] ++ (List.range 12).map (240 + ·) := by
  decide +kernel

/-- Table 7-4: the fallback tone begins in ON and its 60th frame ends the phase. -/
theorem test_worked_fallback :
    let u := settleUser Cadence.reset true true CadenceUnit.reset
    u.phase = .on ∧ u.fallback = true ∧ (soundFrame Cadence.reset u).2.take 21 = List.replicate 20 4096 ++ [-4096] ∧
    ((endPhase Cadence.reset)^[59] u).phase = .on ∧ ((endPhase Cadence.reset)^[60] u).phase = .off := by
  decide +kernel

/-- R15 and R62: a change of ns_enable adopted while the headset is absent leaves the gain of the absent frames. -/
theorem test_absence_keeps_gain :
    (absentFrame (promoteSuppressor false { Suppressor.reset with gain := 4096 })).1.gain = 4096 := by decide

/-- R121: owed DONE writes are retried in cell-number order, whatever the order they became owed in. -/
theorem test_owed_in_cell_order :
    ({ PromptUnit.reset with owed := [⟨2, .played, none⟩, ⟨0, .played, none⟩] }.owedInOrder.map OwedCell.cell) =
      [0, 2] := by decide

/-- R132 and R139: a reminder sounding as its seat leaves service stops, and its unit comes back STOPPED. -/
theorem test_leaving_service_stops :
    let left := { CadenceUnit.reset with phase := .on, elapsed := 2, position := 3, due := some false }
    let x := (idleSeat bus 3 { Seat.reset with cadence := left } Io.reset).1.cadence
    x.phase = .stopped ∧ x.elapsed = 0 ∧ x.due = none ∧ (enterServiceCadence x).position = 3 := by decide +kernel

/-- R182: after a refused first header the streams' reports are not written; after an adopted one they are. -/
theorem test_refused_header_silent :
    (State.reset.refuseHeader 5).header.silent = true ∧ State.reset.header.silent = false ∧
    ((State.reset.adoptHeader 4 (parseHeader [1])).refuseHeader 5).header.silent = false := by decide +kernel

/-! ## The commands -/

/-- R175 and R176: a pin reset clears the window registers, a soft reset keeps them. -/
theorem test_resets :
    let s := run [.registerWrite .windowBase 0x10003, .enableMask 0x3F00, .run 1] State.reset
    (after .pinReset s).regs = Regs.reset ∧ (after .softReset s).regs.windowBase = 0x10000 ∧
    (after .softReset s).regs.run = false ∧ (after .softReset s).regs.enableMask = 0x3F := by decide +kernel

/-- R174: the fourteen lowest bits of STATION_BASE read 0; R173: a FRAME write is ignored. -/
theorem test_register_write : (after (.registerWrite .stationBase 0x0012FFFF) State.reset).regs.stationBase =
    0x0012C000 ∧ after (.registerWrite .frame 9) State.reset = State.reset := by decide +kernel

/-- R173: a CONTROL write with SOFT_RESET 1 takes no other field. -/
theorem test_control_soft_reset : (after (.run 3) State.reset).regs.run = false ∧
    (after (.enableMask 0x3F02) State.reset).regs.enableMask = 0 ∧ (after (.run 1) State.reset).regs.run = true := by
  decide +kernel

/-- R173: WINDOW_FAULT clears by writing 1 to it, and by nothing else. -/
theorem test_window_fault :
    let s := State.reset.setIo { State.reset.io with windowFault := true }
    (after (.windowFaultClear 8) s).io.windowFault = false ∧ (after (.windowFaultClear 0xF7) s).io.windowFault = true := by
  decide +kernel

/-- R158 and R160: a cycle of the reset state counts, and drives zeros. -/
theorem test_cycle_counts : (after (.seatHighwayCycle (Vector.replicate 32 5)) State.reset).cycle = 1 ∧
    (after (.seatHighwayCycle (Vector.replicate 32 5)) State.reset).sh.line = Vector.replicate 32 0 := by decide +kernel

/-- R158: the boundary raises the frame number, which wraps. -/
theorem test_boundary_wraps :
    (after (.frameBoundary [] []) { State.reset with cycle := 80, frame := 0xFFFFFFFF }).frame = 0 ∧
    (after (.frameBoundary [] []) { State.reset with cycle := 80 }).cycle = 0 := by decide +kernel

/-! ## A state that meets the laws, and witnesses -/

/-- A part at work: seat 0 in TALK on slot 3 with two tail blocks and seat 1 whispering to it, a prompt playing and one
waiting; seat 2 holding on slot 4 with stream 5; the highway LOCKED, one cycle in each store; a SLIP waiting; two frames
of stand-alone operation behind it do not hold. -/
def busy : State :=
  let talk : Routing := { Routing.reset with mode := .talk, nhSlot := some 3 }
  let hold : Routing := { Routing.reset with mode := .hold, nhSlot := some 4, holdStream := 5 }
  let sup : Routing := { Routing.reset with mode := .supervise, target := some 0, kind := 1 }
  let s := State.reset
  let s := s.modSeat 0 fun x =>
    { x with adopted := { x.adopted with routing := talk, supervisors := [⟨1, .whisper, false⟩],
                                         echo := { Echo.reset with enable := true, tailRequest := 2 } },
             blocks := [0, 1], prompt := { x.prompt with order := [⟨2, .playing, none⟩, ⟨0, .posted, none⟩],
                                                         stage := .started } }
  let s := s.modSeat 1 fun x => { x with adopted := { x.adopted with routing := sup, attachedTo := some 0 } }
  let s := s.modSeat 2 fun x => { x with adopted := { x.adopted with routing := hold } }
  let s := s.modStream 5 fun x => { x with listeners := 1 }
  { s with
    pending := [.transmitStoreRead]
    running := true
    regs := { Regs.reset with run := true, stationBase := 0x10000, windowBase := 0x10000, windowLimit := 0x14000 }
    area := 0x10000
    header := { edition := some 1, layoutBad := false, adopted := true, seats := 8, serving := 8 }
    nh := { NetPort.reset with lock := .locked, current := { NetSettings.reset with enable := true },
                               rx := [RxCycle.zero], tx := [zeroCycle] }
    io := { Io.reset with mem := [(0x10000, 1)], highwayClass := { waiting := [⟨.slip, .network, 3, 2, 1, 1, 0⟩],
                                                                   shown := none } }
    slotMap := (State.reset.slotMap.set 3 (some 0)).set 4 (some 2)
    pool := (List.range 254).map (2 + ·) }

/-- Whether an outcome is a next state. -/
def completes (o : Host.Outcome State Fault Refusal) : Bool :=
  match o with
  | .next _ => true
  | _ => false

theorem exists_next {o : Host.Outcome State Fault Refusal} (h : completes o = true) : ∃ t, o = .next t := by
  cases o with
  | next t => exact ⟨t, rfl⟩
  | fault r => exact absurd h (by simp [completes])
  | refused r => exact absurd h (by simp [completes])

theorem busy_steps : ∃ t, step busy = .next t := exists_next (by decide +kernel)

theorem witness_MemoryFormKept : memoryWf busy.io.mem = true ∧ ∃ t, step busy = .next t :=
  ⟨by decide +kernel, busy_steps⟩

theorem witness_AlignmentKept : busy.regs.aligned ∧ busy.areaAligned ∧ ∃ t, step busy = .next t :=
  ⟨by unfold Regs.aligned; decide +kernel, by unfold State.areaAligned; decide +kernel, busy_steps⟩

theorem witness_NoticeListsKept : busy.io.noticesOk ∧ ∃ t, step busy = .next t :=
  ⟨fun x => by cases x <;> (unfold Io.classOk noRepeats; decide +kernel), busy_steps⟩

theorem busy_tailOk : busy.tailOk := by unfold State.tailOk; decide +kernel

theorem busy_slotsOk : busy.slotsOk := by unfold State.slotsOk; decide +kernel

/-- A record of the two ROUTING words and the first two ECHO words, naming the groups of its mask. -/
def record (mask w08 w0C w10 w14 : Word) : SeatRecord :=
  parseSeat ([mask, w08, w0C, w10, w14] ++ List.replicate 17 0)

/-- A tail that can be granted, one asked of an empty pool, and one at the floor exactly. -/
theorem witness_TailPoolLaw : busy.poolOk ∧ busy.tailOk ∧ (∃ t, step busy = .next t) ∧ busy.heldBlocks = [0, 1] ∧
    busy.seats[(0 : SeatNo)].adopted.echo.tailFloor ≤ min 2 busy.pool.length ∧
    min 2 { busy with pool := [255] }.pool.length = busy.seats[(0 : SeatNo)].adopted.echo.tailFloor ∧
    min 2 { busy with pool := [] }.pool.length < busy.seats[(0 : SeatNo)].adopted.echo.tailFloor :=
  ⟨by unfold State.poolOk; decide +kernel, busy_tailOk, busy_steps, by decide +kernel⟩

/-- Seat 0 moves from slot 3 to slot 31, and seat 2 leaves slot 4 for IDLE. -/
theorem witness_SlotLawKept : busy.slotsOk ∧ (∃ t, step busy = .next t) ∧ busy.slotMap[3] = some 0 ∧
    checkRecord busy 0 (record 1 0x1F01 0 0 0) = none ∧ checkRecord busy 2 (record 1 0 0 0 0) = none ∧
    (busy.takeSeat 0 9 (record 1 0x1F01 0 0 0)).slotMap[31] = some 0 ∧
    (busy.takeSeat 0 9 (record 1 0x1F01 0 0 0)).slotMap[3] = none ∧
    (busy.takeSeat 2 9 (record 1 0 0 0 0)).slotMap[4] = none :=
  ⟨busy_slotsOk, busy_steps, by decide +kernel⟩

theorem witness_StoresBounded : busy.nh.bounded ∧ busy.nh.storesOk ∧ ∃ t, step busy = .next t :=
  ⟨by unfold NetPort.bounded; decide +kernel, by unfold NetPort.storesOk; decide +kernel, busy_steps⟩

theorem witness_SettingsKeptInRange : busy.settingsOk ∧ ∃ t, step busy = .next t := by
  refine ⟨fun k => ⟨⟨?_, ?_, ?_, ?_⟩, ⟨?_, ?_, ?_, ?_⟩, ?_, ?_⟩, busy_steps⟩ <;> revert k
  all_goals try unfold Echo.inRange
  all_goals try unfold Noise.inRange
  all_goals try unfold Levels.inRange
  all_goals try unfold Cadence.inRange
  all_goals decide +kernel

/-- Seat 2 leaves stream 5, its one listener, for stream 15, and a stream in each state at each edge of the counts. -/
theorem witness_ListenerCountsKept : busy.listenersOk ∧ (∃ t, step busy = .next t) ∧
    busy.streams[(5 : StreamNo)].listeners = 1 ∧ checkRecord busy 2 (record 1 0x0F0402 0 0 0) = none ∧
    (busy.takeSeat 2 9 (record 1 0x0F0402 0 0 0)).streams[(15 : StreamNo)].listeners = 1 ∧
    (busy.takeSeat 2 9 (record 1 0x0F0402 0 0 0)).streams[(5 : StreamNo)].listeners = 0 ∧
    { Stream.reset with state := .waiting }.state = .waiting ∧ Stream.reset.listeners = 0 ∧
    Stream.reset.state ≠ .waiting ∧ { Stream.reset with state := .starved, listeners := 1 }.state = .starved ∧
    { Stream.reset with state := .running, listeners := 1 }.listeners = 1 ∧
    2 ≤ { Stream.reset with state := .running, listeners := 2 }.listeners :=
  ⟨by unfold State.listenersOk; decide +kernel, busy_steps, by decide +kernel⟩

/-- A disabled and an enabled stream; the entry of stream 15 with the edition 6, and one that reads 7 the second time. -/
theorem witness_ListenerCountsKept_adoption :
    let s := { busy with io := { busy.io with mem := writeMemWord 0x105E0 6 (writeMemWord 0x105E4 1 []) } }
    s.io.turns = [] ∧ Stream.reset.enable = false ∧ { Stream.reset with enable := true }.enable = true ∧
    readMemWord (s.area.toNat + 0x400 + 32 * (15 : StreamNo).val + 0) s.io.mem = 6 ∧
    readMemWord (s.area.toNat + 0x400 + 32 * (15 : StreamNo).val + 0) s.io.mem ≠ 7 ∧
    (streamPlace s (15, some 6)).streams[(15 : StreamNo)].state = .waiting ∧
    (streamPlace s (15, some 7)).streams[(15 : StreamNo)].edition = none := by decide +kernel

/-- Seat 1, which whispers to seat 0, changes to BARGE in its place, moves to seat 2, and leaves for IDLE; seat 0, with
seat 1 on its list, goes to IDLE. -/
theorem witness_SupervisionLawKept : busy.attachmentsOk ∧ (∃ t, step busy = .next t) ∧
    busy.seats[(1 : SeatNo)].adopted.attachedTo = some 0 ∧
    checkRecord busy 1 (record 1 0x00000003 0x102 0 0) = none ∧
    checkRecord busy 1 (record 1 0x02000003 1 0 0) = none ∧ checkRecord busy 1 (record 1 0 0 0 0) = none ∧
    checkRecord busy 0 (record 1 0 0 0 0) = none ∧ checkRecord busy 1 (record 0 0 0 0 0) = none ∧
    (busy.takeSeat 1 9 (record 1 0x00000003 0x102 0 0)).seats[(0 : SeatNo)].adopted.supervisors =
      [⟨1, .barge, true⟩] ∧
    (busy.takeSeat 1 9 (record 1 0x02000003 1 0 0)).seats[(2 : SeatNo)].adopted.supervisors = [⟨1, .whisper, false⟩] ∧
    (busy.takeSeat 0 9 (record 1 0 0 0 0)).seats[(1 : SeatNo)].adopted.attachedTo = none :=
  ⟨by unfold State.attachmentsOk; decide +kernel, busy_steps, by decide +kernel⟩

theorem witness_PlayOrdersKept : busy.ordersOk ∧ ∃ t, step busy = .next t :=
  ⟨by unfold State.ordersOk PromptUnit.orderOk; decide +kernel, busy_steps⟩

theorem witness_TimelineKept : busy.timelineOk ∧ busy.framesOk ∧ ∃ t, step busy = .next t :=
  ⟨by unfold State.timelineOk SlotStatus.countsOk; decide +kernel,
    by unfold State.framesOk Seat.framesOk; decide +kernel, busy_steps⟩

/-- A boundary at which the host writes beside the window, at the byte after the one asked about. -/
theorem witness_NothingWrittenOutsideWindow : memoryWf busy.io.mem = true ∧ noHostWriteAt 0x14000 busy.io.turns ∧
    outsideWindow busy.regs 0x14000 ∧ outsideWindow busy.regs 0xFFFF ∧ ¬ outsideWindow busy.regs 0x13FFF ∧
    noHostWriteAt 0x14000 [⟨[(0x14001, 5)], true⟩] ∧
    ∃ t, exec (.frameBoundary [⟨[(0x14001, 5)], true⟩] []) { busy with cycle := 80 } = .next t :=
  ⟨by decide +kernel, by unfold noHostWriteAt; decide +kernel, by unfold outsideWindow; decide +kernel,
    by unfold outsideWindow; decide +kernel, by unfold outsideWindow; decide +kernel,
    by simp [noHostWriteAt], exists_next (by decide +kernel)⟩

/-- R186 and R187: a record of four words of which the window refuses the first and the last and the second fails on the
bus: the third stands in memory, and WRITE_FAILED and then one WINDOW_REFUSED are handed. -/
theorem witness_NothingWrittenOutsideWindow_record :
    let cut : Env := { bus with lo := 0x10004, hi := 0x1000C }
    let io : Io := { Io.reset with turns := [⟨[], true⟩] }
    let r := writeRecord cut (.seat 3) [(0x10000, 1), (0x10004, 2), (0x10008, 3), (0x1000C, 4)] io
    (∀ t ∈ io.turns, t.writes = []) ∧ r.1 = false ∧ r.2.mem = writeMemWord 0x10008 3 [] ∧ r.2.turns = [] ∧
    (r.2.faultClass.waiting.map fun n => (n.code, n.source, n.detail0)) =
      [(.writeFailed, .seat 3, 0x10004), (.windowRefused, .seat 3, 0x10000)] := by decide +kernel

theorem witness_OutOfTurnEventsChangeNothing : State.reset.pending = [] ∧ { State.reset with cycle := 80 }.cycle = 80 ∧
    State.reset.cycle < 80 ∧ { State.reset with cycle := 79 }.cycle < 80 ∧ State.reset.tick.expired = false ∧
    State.reset.nh.lock ≠ .hunt ∧ (State.reset.nh.lock ≠ .locked) ∧
    { State.reset.nh.current with lead := true }.lead = true := by decide +kernel

theorem witness_ControlWriteCompletes : (0x3F01 : Word).getLsbD 1 = false ∧ (2 : Word).getLsbD 1 = true := by decide

theorem witness_InterruptFollowsMask : (0x800 : Word).getLsbD 1 = false ∧
    (0x800 : Word).getLsbD (8 + NoticeClass.number .highway) = true := by decide

/-- Table 12-1: STATUS of a running part that is LOCKED with a SEAT notice posted, and CONTROL with the mask of class 5. -/
theorem test_register_reads :
    let s := (busy.modRegs fun r => { r with enableMask := 0x20 }).setIo
      (busy.io.setCls .seat { waiting := [], shown := some ⟨.talkKey, .seat 3, 5, 0, 1, 0, 0⟩ })
    s.readRegister .status = 0x20101 ∧ s.readRegister .control = 0x2001 ∧
    { s with frame := 7 }.readRegister .frame = 7 := by decide +kernel

theorem witness_WindowFaultClearCompletes : (8 : Word).getLsbD 3 = true ∧ (7 : Word).getLsbD 3 = false := by decide

/-- The first and the last cycle of a frame; a port that works with an entry to read, one with none and a full transmit
store, one that is stopped, one that is not LOCKED, and a restarted LEAD port; a slot that two seats name. -/
theorem witness_SeatHighwayCycleCompletes :
    let empty := { busy with nh := { busy.nh with rx := [], tx := List.replicate 64 zeroCycle } }
    let lead := { busy with nh := { NetPort.reset with leadStart := true } }
    let two := (busy.modSeat 4 fun x => { x with mixer := { x.mixer with lineSlot := some 31 } }).modSeat 9 fun x =>
      { x with mixer := { x.mixer with lineSlot := some 31 } }
    { busy with cycle := 79 }.cycle < 80 ∧ busy.cycle < 80 ∧
    { busy.sh with running := true }.running = true ∧ busy.running = true ∧ State.reset.running = false ∧
    busy.nh.lock = .locked ∧ busy.nh.rx ≠ [] ∧ busy.nh.tx.length < 64 ∧ empty.nh.rx = [] ∧
    64 ≤ empty.nh.tx.length ∧ State.reset.nh.lock ≠ .locked ∧ lead.nh.leadStart = true ∧
    two.seats[(9 : SeatNo)].mixer.lineSlot = some 31 ∧ two.seats[(4 : SeatNo)].mixer.lineSlot = some 31 ∧
    (∀ j : SeatNo, two.seats[j].mixer.lineSlot ≠ some 0) := by
  decide +kernel

theorem witness_DownstreamSlotWord : (-32768 : Sample) ≤ -32768 ∧ (-32768 : Sample) ≤ 32767 ∧
    (downstreamWord (-32768) true false).getLsbD 15 = false := by decide

/-- A cycle of zeros whose check slot is one more than their check. -/
def failing : Vector Word 33 := (Vector.replicate 33 0).set 32 ((checkOf zeroCycle + 1) ++ (0 : Half))

theorem failing_fails : slotBits false failing[32] ≠ checkOf (voiceSamples false failing) := by
  have h : voiceSamples false failing = zeroCycle := by decide +kernel
  have g : ∀ x : Half, slotBits false (x ++ (0 : Half)) = x := fun x => by
    ext i hi
    have e := BitVec.getLsbD_append (x := x) (y := 0#16) (i := 16 + i)
    simp at e ⊢
    simp [slotBits, e, hi]
  have e : failing[32] = (checkOf zeroCycle + 1) ++ (0 : Half) := by simp [failing]
  rw [h, e, g]
  exact fun k => by bv_omega

/-- R167: the store with room, and the full store, of a LOCKED port at work, with a good and a failed cycle; a port that is
not LOCKED. -/
theorem witness_ReceiveArrivalCompletes : busy.nh.lock = .locked ∧ busy.running = true ∧ busy.nh.rx.length < 64 ∧
    64 ≤ { busy.nh with rx := List.replicate 64 RxCycle.zero }.rx.length ∧ busy.nh.current.check = false ∧
    slotBits false failing[32] ≠ checkOf (voiceSamples false failing) ∧ State.reset.nh.lock ≠ .locked :=
  ⟨by decide +kernel, by decide +kernel, by decide +kernel, by decide +kernel, by decide +kernel, failing_fails,
    by decide +kernel⟩

theorem witness_CheckStormOncePerRun : { NetSettings.reset with check := true }.check = true ∧
    NetSettings.reset.narrow = false ∧ slotBits false failing[32] ≠ checkOf (voiceSamples false failing) ∧
    NetPort.reset.consecutive = 0 ∧ NetPort.reset.storm = false ∧ NetPort.reset.checkFailures + 33 ≤ 4294967295 :=
  ⟨rfl, rfl, failing_fails, rfl, rfl, by decide⟩

theorem witness_SentCycleIsReceived : (∀ k : SlotNo, -32768 ≤ zeroCycle[k] ∧ zeroCycle[k] ≤ 32767) ∧
    { NetSettings.reset with check := true }.check = true ∧ NetSettings.reset.check = false := by decide +kernel

theorem witness_TransmitReadCompletes : busy.nh.lock = .locked ∧ busy.running = true ∧
    busy.nh.tx = zeroCycle :: [] ∧ (after .transmitStoreRead busy).nh.tx = [] ∧
    (after .transmitStoreRead busy).nh.lock = .locked ∧
    { busy with running := false }.running = false ∧ State.reset.nh.lock ≠ .locked := by decide +kernel

theorem witness_CycleStartCompletes : hunting.lock = .hunt ∧ hunting.current.divider.len = 1536 ∧
    { hunting with run := 3 }.run + 1 = 4 ∧ { hunting with run := 2 }.run + 1 < 4 ∧
    { busy with nh := { hunting with run := 3 } }.running = true ∧
    { State.reset with nh := { hunting with run := 3 } }.running = false := by decide +kernel

theorem witness_SyncTestCompletes : following.lock = .locked ∧ following.current.lead = false ∧
    goodSync following.current (syncAt 7) = true ∧ goodSync following.current (syncAt 6) = false ∧
    following.miss = 0 ∧ 1 ≤ { following with miss := 1 }.miss ∧
    (syncAt 7).length = following.current.divider.len + 1 ∧ following.current.span = false ∧
    goodSync { following.current with span := true } (syncAt 8) = true := by decide +kernel

/-- A part at work with RUN set and with RUN 0, and a stopped one with each; the last seat that serves, one that comes into
service and one that does neither; a unit first in the order; a due expiry; restarts of both ports. -/
theorem witness_FrameBoundaryCompletes :
    let s := { busy with cycle := 80, header := { busy.header with seats := 9 }, sh := { busy.sh with restart := true }
                         nh := { busy.nh with restart := true } }
    s.cycle = 80 ∧ s.running = true ∧ s.regs.run = true ∧ { s.regs with run := false }.run = false ∧
    { State.reset with cycle := 80 }.running = false ∧ { State.reset with cycle := 80 }.regs.run = false ∧
    { State.reset with cycle := 80, regs := { Regs.reset with run := true } }.regs.run = true ∧
    (7 < s.header.serving ∧ ¬ 8 < s.header.serving) ∧ (s.header.serving ≤ 8 ∧ 8 < s.header.seats) ∧
    ¬ 9 < s.header.seats ∧ [Worker.seat 7, .stream 15].head? = some (.seat 7) ∧
    [Worker.stream 15].head? = some (.stream 15) ∧ { s.tick with expired := true }.expired = true ∧
    s.tick.expired = false ∧ s.sh.restart = true ∧ s.nh.restart = true ∧ busy.nh.restart = false ∧
    busy.nh.lock = .locked := by decide +kernel

/-- R188 and R198: the monitor of a boundary of stand-alone operation posts RESUMED with the new tick word and the count. -/
theorem witness_FrameBoundaryCompletes_resumed :
    let tick := { TickMonitor.reset with period := 20, last := some 4, standalone := true, aloneFrames := 3 }
    let s := { busy with cycle := 80, tick := tick, io := { busy.io with mem := writeMemWord 0x10024 9 [] } }
    s.cycle = 80 ∧ s.tick.standalone = true ∧ s.running = true ∧ s.regs.run = true ∧
    s.monitorTick.tick.standalone = false ∧
    (s.monitorTick.io.supervisionClass.waiting.map fun n => (n.code, n.detail0, n.detail1)) = [(.resumed, 9, 3)] := by
  decide +kernel

/-- R2 and R177: a seat that is taken through the boundary of a working part is governed by what the scan left, a stopped
part's is not, and a resumption discards a prepared buffer (R128). -/
theorem test_boundary_opens_frame :
    let s := { busy with cycle := 80, running := false }
    let x := (busy.seats[(0 : SeatNo)])
    (promoteSeat x).governing.routing.mode = .talk ∧ x.governing.routing.mode = .idle ∧
    (promoteSeat x).canceller.state = .converging ∧ (promoteSeat x).canceller.taps.length = 128 ∧
    (resumeSeat x).prompt.stage = .again ∧ (s.actOnRun).running = true := by decide +kernel

theorem witness_StoppedBoundaryIsSilent :
    let s := { State.reset with cycle := 80 }
    s.cycle = 80 ∧ s.running = false ∧ s.regs.run = false ∧ s.tick.expired = false := by decide +kernel

/-- A window that takes the station area to its last byte, the last seat in service and the first out of it, and a part
whose first header was refused. -/
theorem witness_PartTickWordWritten :
    let s := { busy with cycle := 80 }
    let refused := { s with header := { s.header with layoutBad := true, adopted := false } }
    s.cycle = 80 ∧ s.running = true ∧ memoryWf s.io.mem = true ∧ s.regs.windowBase.toNat ≤ s.area.toNat ∧
    s.area.toNat + 16384 = s.regs.windowLimit.toNat ∧ 7 < s.header.serving ∧ s.header.serving ≤ 8 ∧
    [Worker.seat 7].head? = some (.seat 7) ∧ ¬ (s.header.layoutBad = true ∧ s.header.adopted = false) ∧
    refused.header.layoutBad = true ∧ refused.header.adopted = false := by decide +kernel

/-- The busy part with a TICK_LATE waiting in the SUPERVISION class. -/
def late : State :=
  { busy with io := { busy.io with supervisionClass :=
                        { waiting := [⟨.tickLate, .tickMonitor, 3, 0, 20, 5, 0⟩], shown := none } } }

/-- An expiry after which the scans are made, one that enters stand-alone operation, and one in it. -/
theorem witness_HostTickExpiryCompletes :
    let due (s : State) : State := { s with tick := { s.tick with expired := true } }
    let alone : State := { busy with tick := { TickMonitor.reset with expired := true, standalone := true } }
    (due busy).tick.expired = true ∧ ¬ ((due busy).tick.standalone = true ∨ tickLateThere (due busy).io = true) ∧
    (due late).tick.expired = true ∧ tickLateThere (due late).io = true ∧ alone.tick.expired = true ∧
    alone.tick.standalone = true := by decide +kernel

/-- R197: an entry hands STANDALONE_ENTERED behind the TICK_LATE, and seat 1, which whispers to seat 0, is detached with
cause 2; a mark that stands is kept. -/
theorem test_entry_notices :
    let marked := late.modSeat 0 fun x =>
      { x with prompt := { x.prompt with order := [⟨2, .playing, some .cancelled⟩, ⟨0, .posted, none⟩] } }
    let t := marked.expire
    t.io.supervisionClass.waiting.map (fun n => n.code) = [.tickLate, .standaloneEntered] ∧
    t.io.seatClass.waiting.map (fun n => (n.code, n.source, n.detail0, n.detail1)) =
      [(.supervisorDetached, .seat 1, 0, 2)] ∧
    t.seats[(0 : SeatNo)].prompt.order.map (fun q => q.mark) = [some .cancelled, some .abandoned] := by decide +kernel

/-- A TICK_LATE in the SUPERVISION class, and a part without one, in and out of stand-alone operation; an attached seat and
one that no list names. -/
theorem witness_ExpiryOutcome :
    (∃ a ∈ late.seats[(0 : SeatNo)].adopted.supervisors, a.seat = 1) ∧
    (∀ t : SeatNo, ∀ a ∈ late.seats[t].adopted.supervisors, a.seat ≠ 31) ∧
    late.tick.standalone = false ∧ tickLateThere late.io = true ∧ tickLateThere busy.io = false ∧
    { TickMonitor.reset with standalone := true }.standalone = true ∧
    late.expire.seats[(0 : SeatNo)].adopted.supervisors = [] ∧
    late.expire.seats[(1 : SeatNo)].adopted.attachedTo = none := by decide +kernel

theorem witness_MonitorExpiresAfterT :
    let t := { TickMonitor.reset with period := 20, last := some 5 }
    t.count = 0 ∧ t.expired = false ∧ t.last = some 5 ∧ t.period ≠ 0 ∧ t.last ≠ some 6 ∧
    (20 : Nat) ≤ t.period ∧ (1 : Nat) ≤ t.period := by decide

theorem witness_BandOfFrame : meanSquare (List.replicate 80 2) < 2 * Suppressor.reset.initialised.floor ∧
    2 * Suppressor.reset.initialised.floor ≤ meanSquare (List.replicate 80 2000) := by decide +kernel

theorem witness_VoiceHangover : workedNoise.vadBand ≤ 2 ∧ (∀ x ∈ [1, 0], x < workedNoise.vadBand) := by decide

theorem witness_MicOutNeverSaturates : (∀ j : Fin 8, workedNoise.gainTable[j] ≤ 16384) ∧
    Suppressor.reset.gain ≤ 16384 ∧ workedNoise.enable = true ∧ (List.replicate 80 (-32768) : List Sample).length = 80 ∧
    (∀ v ∈ (List.replicate 80 (-32768) : List Sample), -32768 ≤ v ∧ v ≤ 32767) ∧ Noise.reset.enable = false ∧
    (presentFrame workedNoise Suppressor.reset silence).1.band = (0 : Fin 8).val ∧
    workedNoise.gainTable[(0 : Fin 8)] < Suppressor.reset.initialised.gain ∧
    (presentFrame workedNoise { Suppressor.reset with gain := 4096 } attackFrame).1.band = (3 : Fin 8).val ∧
    { Suppressor.reset with gain := 4096 }.initialised.gain ≤ workedNoise.gainTable[(3 : Fin 8)] := by
  decide +kernel

/-- The duck ramp's hypotheses at both ends of its range. -/
theorem witness_DuckRamp : (0 : Nat) ≤ 16384 ∧ (16384 : Nat) ≤ 16384 ∧ (79 : Nat) < 80 ∧
    rampAt 0 16384 79 = 16384 ∧ effectiveGain 32767 16384 16384 79 = 32767 := by decide

theorem witness_QuietCountRules : (20 : Nat) ≤ 20 ∧
    ruling false ((true :: List.replicate 20 false).foldl (fun q g => nextQuiet g q) 20) = true ∧
    ruling false ((true :: List.replicate 19 false).foldl (fun q g => nextQuiet g q) 20) = false := by decide

theorem witness_BusSampleRounds : (16384 : Int) * 32767 ≤ 536862719 + 8192 ∧
    (536862719 : Int) + 8192 < 16384 * (32767 + 1) ∧ (0 : Nat) ≤ 4294967295 := by decide

/-- The inputs of a quiet frame. -/
def quietInputs : SeatInputs :=
  { status := { present := true, muteKey := false, talkKey := false }, mic := List.replicate 80 100,
    y := silence, fault := false, stream := none, standalone := false }

/-- A seat of a mode with two supervisors, a BARGE one on seat 3 and a LISTEN one on seat 4, whose voice flags are 1. -/
def supervised (m : Mode) : Seat :=
  { Seat.reset with governing := { Settings.reset with
      routing := { Routing.reset with mode := m }, attachedTo := if m = .supervise then some 3 else none
      supervisors := if m.holdsSlot then [⟨3, .barge, false⟩, ⟨4, .listen, false⟩] else [] } }

/-- Kept results with a voice. -/
def speaking : Kept := { Kept.zero with voice := true, sent := List.replicate 80 50 }

theorem witness_LineOfCallSeat :
    quietInputs.mic.length = 80 ∧ speaking.sent.length = 80 ∧ (supervised .idle).governing.routing.mode = .idle ∧
    (supervised .talk).governing.routing.mode = .talk ∧ gateIsOn (fun _ => speaking) ⟨3, .barge, false⟩ = true ∧
    gateIsOn (fun _ => speaking) ⟨4, .listen, false⟩ = false ∧
    gateIsOn (fun _ => speaking) ⟨3, .barge, true⟩ = false ∧
    (supervised .hold).governing.routing.mode = .hold ∧ quietInputs.stream = none ∧ quietInputs.standalone = false ∧
    { quietInputs with standalone := true }.standalone = true ∧
    { quietInputs with stream := some silence }.stream = some silence ∧ silence.length = 80 ∧
    (supervised .talk).governing.routing.hostMute = false ∧ quietInputs.status.present = true ∧
    (seatAudio 0 (fun _ => speaking) quietInputs (supervised .talk)).seat.keyMute = false := by decide +kernel

/-- A seat that holds slot 31 and names stream 15, which plays, and one in IDLE; a press of a key that may mute and of one
that may not, a key held without PRESENT, and a headset plugged in and taken out. -/
theorem witness_LineOfCallSeat_inputs :
    let call := { Routing.reset with mode := .hold, nhSlot := some 31, holdStream := 15 }
    let s := (State.reset.modSeat 7 fun x => { x with governing := { x.governing with routing := call } }).modStream 15
      fun st => { st with playing := true }
    let keyed : Status := { present := true, muteKey := true, talkKey := true }
    let slot : SlotStatus := { present := ⟨false, 15⟩, muteKey := ⟨true, 0⟩, talkKey := ⟨false, 16⟩ }
    s.seats[(7 : SeatNo)].governing.routing.mode = .hold ∧ s.seats[(7 : SeatNo)].governing.routing.nhSlot = some (31 : SlotNo).val ∧
    s.seats[(7 : SeatNo)].governing.routing.holdStream = (15 : StreamNo).val ∧ s.streams[(15 : StreamNo)].playing = true ∧
    s.seats[(6 : SeatNo)].governing.routing.mode = .idle ∧ keyed.muteKey = true ∧ Status.reset.muteKey = false ∧
    { call with keyMuteAllowed := true }.keyMuteAllowed = true ∧ call.keyMuteAllowed = false ∧
    takeStatus slot = Status.reset ∧ takeStatus { slot with present := ⟨false, 16⟩ } = keyed ∧
    nextKeyMute true Status.reset keyed false = true ∧ nextKeyMute false Status.reset keyed false = false ∧
    nextKeyMute true keyed keyed false = false ∧ Status.reset.present = false ∧ keyed.present = true := by decide +kernel

/-- A silent frame below the floor, and a frame above it that raises it. -/
theorem witness_FloorUpdate :
    meanSquare silence < Suppressor.reset.initialised.floor ∧ 1 ≤ Suppressor.reset.initialised.floor ∧
    Suppressor.reset.initialised.floor ≤ meanSquare (List.replicate 80 100) ∧
    Suppressor.reset.initialised.floor <
      (presentFrame Noise.reset Suppressor.reset (List.replicate 80 100)).1.floor := by decide +kernel

/-- Slot 31's PRESENT bit with a complete count, and its MUTE_KEY bit with a count one short. -/
theorem witness_DebounceCompleteCompletes :
    let slot : SlotStatus := { SlotStatus.reset with present := ⟨false, 16⟩, muteKey := ⟨true, 15⟩ }
    let s : State := { State.reset with sh := { State.reset.sh with slots := State.reset.sh.slots.set 31 slot } }
    (after (.debounceComplete 31 .present) s).sh.slots[31].present = ⟨true, 0⟩ ∧
    (after (.debounceComplete 31 .muteKey) s).sh.slots[31].muteKey = ⟨true, 15⟩ ∧ (15 : Nat) < 16 := by decide +kernel

/-- A seat of each mode, with a gate on and with none; a prompt that is due at q = 20, and one held at q = 19. -/
theorem witness_EarOfSeat :
    let due := { supervised .talk with prompt := { PromptUnit.reset with
                   order := [⟨2, .posted, none⟩], stage := .ready, clip := some ⟨0x20000, 200, false, 0⟩ } }
    quietInputs.mic.length = 80 ∧ quietInputs.y.length = 80 ∧ speaking.sent.length = 80 ∧
    Seat.reset.prompt.buffer.length = 80 ∧
    (supervised .talk).governing.supervisors.filter (gateIsOn fun _ => speaking) = [⟨3, .barge, false⟩] ∧
    (supervised .talk).governing.supervisors.filter (gateIsOn fun _ => Kept.zero) = [] ∧
    due.prompt.due = true ∧ due.arbiter.quiet = 20 ∧ { due.arbiter with quiet := 19 }.quiet ≠ 20 ∧
    (∀ m ∈ [Mode.idle, .talk, .hold, .supervise], (supervised m).governing.routing.mode = m) ∧
    quietInputs.standalone = false ∧ { quietInputs with stream := some silence }.stream ≠ none ∧
    { quietInputs with standalone := true }.stream = none ∧
    { (supervised .supervise).governing with attachedTo := none }.attachedTo = none ∧
    (supervised .supervise).governing.attachedTo = some 3 ∧ Kept.zero.cust.length = 80 := by decide +kernel

/-- A canceller's run at one sample: a loud y fires over a silent window, and y = 0 never does. -/
def emptyRun : EcRun :=
  { taps := List.replicate 64 0, talk := 0, power := 0, level := 0, doubleTalk := false, lowReference := false,
    errors := [] }

theorem witness_DoubleTalkHold :
    windowLevel (tapWindow (workingHistory silence zeroHistory) 0 emptyRun.taps.length 0) <
      (32767 : Sample).natAbs * 2 ^ Echo.reset.talkRatioShift ∧
    ¬ windowLevel (tapWindow (workingHistory silence zeroHistory) 0 emptyRun.taps.length 1) <
      (0 : Sample).natAbs * 2 ^ Echo.reset.talkRatioShift ∧ Echo.reset.bulkDelay = 0 ∧
    (∀ v ∈ List.replicate 64 (0 : Sample), v = 0) ∧ (5 : Sample) ≠ 0 ∧
    { Canceller.reset with state := .tracking }.state ≠ .off := by
  decide +kernel

/-- A frozen frame and taps at their bounds; the last sample and tap of a window that reaches past the history; a sample at
the reference floor, one below it and one that no reason holds; a canceller in each state with blocks, none, and more. -/
theorem witness_TapsHold :
    let e := { Echo.reset with talkRatioShift := 1, referenceFloor := 64 * 100 }
    let full : List Sample := List.replicate 400 10
    let low : List Sample := 9 :: List.replicate 399 10
    { Echo.reset with hostFreeze := true }.hostFreeze = true ∧
    (∀ h ∈ ([8388607, -8388608] : List Int), -8388608 ≤ h ∧ h ≤ 8388607) ∧ 79 < 80 ∧ 1023 < 1024 ∧
    windowPower (tapWindow full 0 64 79) = e.referenceFloor ∧ windowPower (tapWindow low 0 64 79) < e.referenceFloor ∧
    (ecSample e false full emptyRun (79, 5)).doubleTalk = false ∧ (ecSample e false full emptyRun (79, 5)).taps ≠ emptyRun.taps ∧
    (ecSample e false low emptyRun (79, 4)).taps = emptyRun.taps ∧
    (ecSample e false low emptyRun (79, 4)).lowReference = true ∧
    Canceller.reset.state = .off ∧ { Canceller.reset with state := .tracking }.state ≠ .off ∧ (1 : Nat) ≤ 16 ∧
    { Canceller.reset with taps := List.replicate 128 0 }.taps.length = 64 * 2 ∧
    { Canceller.reset with taps := List.replicate 128 0 }.taps.length ≠ 64 * 1 := by decide +kernel

/-- Runs of 39 and 40 frames with 8 × Ee at most Ey, and of 99 and 100 with Ee at least Ey, each at its edge. -/
theorem witness_FortyFramesToTracking :
    let none' : HoldReasons := ⟨false, false, false, false⟩
    let good : Nat × Nat × HoldReasons := (80, 10, none')
    let lost : Nat × Nat × HoldReasons := (80, 80, none')
    (∀ f ∈ List.replicate 39 good ++ [(1, 0, none')], 0 < f.1 ∧ 8 * f.2.1 ≤ f.1 ∧ f.2.2 = none') ∧
    (∀ f ∈ List.replicate 100 lost, 0 < f.1 ∧ f.1 ≤ f.2.1 ∧ f.2.2 = none') ∧
    (List.replicate 39 good ++ [(1, 0, none')]).length = 40 ∧ (List.replicate 99 lost).length < 100 ∧
    { Canceller.reset with state := .converging }.state = .converging ∧ Canceller.reset.convergenceRun = 0 ∧
    { Canceller.reset with state := .tracking }.state = .tracking ∧ Canceller.reset.lossRun = 0 ∧
    (80 : Nat) < 8 * 11 ∧ (79 : Nat) < 80 ∧ Canceller.reset.state = .off ∧
    (⟨true, false, false, false⟩ : HoldReasons) ≠ none' := by decide +kernel

/-- A unit of each user in each phase, at the start of a phase and at its last frame; starts, stops and new periods due. -/
theorem witness_CadencePhases :
    let alone := { CadenceUnit.reset with fallback := true, phase := .on, elapsed := 59 }
    CadenceUnit.reset.fallback = false ∧ CadenceUnit.reset.elapsed = 0 ∧
    1 ≤ Cadence.reset.onFrames ∧ { CadenceUnit.reset with phase := .on }.phase = .on ∧
    { CadenceUnit.reset with phase := .off }.phase = .off ∧ 1 ≤ { Cadence.reset with offFrames := 3 }.offFrames ∧
    alone.fallback = true ∧ ¬ alone.elapsed + 1 < 60 ∧ { alone with elapsed := 58 }.elapsed + 1 < 60 ∧
    { CadenceUnit.reset with due := some true }.due = some true ∧
    { CadenceUnit.reset with due := some false }.due = some false ∧ CadenceUnit.reset.due = none ∧
    { CadenceUnit.reset with newPeriod := true, phase := .on }.newPeriod = true := by decide

/-- The last position of a period in each use. -/
theorem witness_ToneSamples : CadenceUnit.reset.fallback = false ∧ 1 ≤ Cadence.reset.halfPeriod ∧
    { CadenceUnit.reset with position := 7 }.position < 2 * Cadence.reset.halfPeriod ∧
    (39 : Nat) < 2 * fallbackSettings.halfPeriod ∧ { CadenceUnit.reset with fallback := true }.fallback = true ∧
    CadenceUnit.reset.phase ≠ .on ∧ { CadenceUnit.reset with phase := .on }.phase = .on := by decide

/-- The reset settings, and a seat with as many blocks and as high a band as the fields hold. -/
theorem witness_SettingsWordsRoundTrip : Levels.reset.inRange ∧ Noise.reset.inRange ∧ Cadence.reset.inRange ∧
    Echo.reset.inRange ∧ { Seat.reset with blocks := List.replicate 255 0 }.blocks.length ≤ 255 ∧
    { Suppressor.reset with band := 7 }.band ≤ 7 := by
  unfold Levels.inRange Noise.inRange Cadence.inRange Echo.inRange
  decide +kernel

/-- Seat 5 asks for the slot that seat 0 holds, and is refused with SLOT_TAKEN; a record of an empty mask is not; seat 0
grows to 4 blocks, shrinks to 1, and keeps 2 when a partial grant's request is written again; seat 5 comes to TALK with a
tail, and waits when no block is free. -/
theorem witness_RefusedRecordFrame :
    let none' := record 0 0 0 0 0
    let joins := record 3 0x0601 0 1 0x01010104
    let partly := busy.modAdopted 0 fun g => { g with echo := { g.echo with tailRequest := 4 } }
    checkRecord busy 5 (record 1 0x0301 0 0 0) = some .slotTaken ∧ busy.seats[(5 : SeatNo)].waiting = false ∧
    none'.namesRouting = false ∧ none'.namesEcho = false ∧ none'.namesCancel = false ∧ none'.namesNoise = false ∧
    none'.namesLevels = false ∧ none'.namesCadence = false ∧
    checkRecord busy 0 (record 2 0 0 1 0x01010104) = none ∧ checkRecord busy 0 (record 2 0 0 1 0x01010101) = none ∧
    (busy.takeSeat 0 9 (record 2 0 0 1 0x01010104)).seats[(0 : SeatNo)].blocks = [0, 1, 2, 3] ∧
    (busy.takeSeat 0 9 (record 2 0 0 1 0x01010101)).seats[(0 : SeatNo)].blocks = [0] ∧
    (partly.takeSeat 0 9 (record 2 0 0 1 0x01010104)).seats[(0 : SeatNo)].blocks = [0, 1] ∧
    checkRecord busy 5 joins = none ∧ (busy.takeSeat 5 9 joins).seats[(5 : SeatNo)].blocks = [2, 3, 4, 5] ∧
    ({ busy with pool := [] }.takeSeat 5 9 joins).seats[(5 : SeatNo)].waiting = true := by decide +kernel

/-- R13, R38 and R42: seat 0 goes to IDLE with seat 1 on its list; seat 5 asks an empty pool, seat 0 asks it for growth,
and a waiting seat's retry is quiet. -/
theorem witness_RefusedRecordFrame_notices :
    let dry := { busy with pool := [] }
    let waits := (dry.takeSeat 5 9 (record 3 0x0601 0 1 0x01010104)).setIo busy.io
    let posted (s : State) := s.io.seatClass.waiting.map fun n => (n.code, n.source, n.detail0, n.detail1)
    posted (busy.takeSeat 0 9 (record 1 0 0 0 0)) = [(.supervisorDetached, .seat 1, 0, 1)] ∧
    posted (dry.takeSeat 5 9 (record 3 0x0601 0 1 0x01010104)) = [(.poolShort, .seat 5, 4, 1)] ∧
    checkRecord dry 0 (record 2 0 0 1 0x01010304) = none ∧
    posted (dry.takeSeat 0 9 (record 2 0 0 1 0x01010304)) = [(.poolShort, .seat 0, 4, 3)] ∧
    waits.seats[(5 : SeatNo)].waiting = true ∧ posted (waits.takeSeat 5 9 (record 0 0 0 0 0)) = [] := by decide +kernel

/-- The record of seat 5 with the edition 6, and one that reads 7 the second time. -/
theorem witness_RefusedRecordFrame_read :
    let s := { busy with io := { busy.io with mem := writeMemWord 0x11280 6 [] } }
    s.io.turns = [] ∧ readMemWord (s.area.toNat + 0x1000 + 128 * (5 : SeatNo).val + 0) s.io.mem = 6 ∧
    readMemWord (s.area.toNat + 0x1000 + 128 * (5 : SeatNo).val + 0) s.io.mem ≠ 7 ∧
    (seatPlace s (5, some 6)).seats[(5 : SeatNo)].edition = some 6 ∧
    (seatPlace s (5, some 7)).seats[(5 : SeatNo)].edition = none := by decide +kernel

theorem witness_RefusedRecordFrame_tail : busy.tailOk ∧ busy.poolOk ∧ { busy with pool := [] }.tailOk :=
  ⟨busy_tailOk, by unfold State.poolOk; decide +kernel, by unfold State.tailOk; decide +kernel⟩

/-- A request that fails each check of the table, alone or before another that it fails too. -/
theorem witness_CallRequestChecks :
    let ask (mode slot stream target kind : Nat) : RoutingRecord := ⟨mode, slot, stream, target, kind, false, false, false⟩
    let full := busy.modAdopted 0 fun g => { g with supervisors := [⟨1, .whisper, false⟩, ⟨6, .listen, false⟩] }
    decodeMode 1 = some .talk ∧ decodeMode 2 = some .hold ∧ decodeMode 0 = some .idle ∧
    checkRouting busy 5 (ask 4 0 0 0 0) = some .badMode ∧ checkRouting busy 5 (ask 3 0 0 5 3) = some .badMode ∧
    checkRouting busy 5 (ask 1 32 0 0 0) = some .slotRange ∧ checkRouting busy 5 (ask 2 3 16 0 0) = some .slotTaken ∧
    checkRouting busy 5 (ask 2 31 16 0 0) = some .streamRange ∧ checkRouting busy 5 (ask 2 31 255 0 0) = none ∧
    checkRouting busy 5 (ask 3 0 0 5 0) = some .targetInvalid ∧ checkRouting busy 5 (ask 3 0 0 8 0) = some .targetInvalid ∧
    checkRouting busy 5 (ask 3 0 0 1 0) = some .targetInvalid ∧ checkRouting busy 5 (ask 3 0 0 7 0) = some .targetIdle ∧
    checkRouting full 5 (ask 3 0 0 0 0) = some .targetFull ∧ checkRouting full 6 (ask 3 0 0 0 0) = none ∧
    checkRouting busy 0 (ask 3 0 0 2 0) = some .hasSupervisors ∧ checkRouting busy 5 (ask 3 0 0 0 2) = none := by
  decide +kernel

/-- A record that fails each check of ECHO and of PROMPT_CANCEL at its edge, alone or after one that fails before it, and
one that names no group with bad words. -/
theorem witness_CallRequestChecks_groups :
    let ask (echo : Echo) (cell : Nat) := { record 34 0 0 0 0 with echo := echo, cancelCell := cell }
    let tail (request floor : Nat) : Echo := { Echo.reset with tailRequest := request, tailFloor := floor }
    checkRecord busy 5 { ask (tail 0 0) 4 with namesRouting := true, routing := ⟨1, 3, 0, 0, 0, false, false, false⟩ } =
      some .slotTaken ∧
    checkRecord busy 5 (ask (tail 17 1) 4) = some .tailRange ∧ checkRecord busy 5 (ask (tail 0 0) 255) = some .tailRange ∧
    checkRecord busy 5 (ask (tail 3 4) 255) = some .tailRange ∧ checkRecord busy 5 (ask (tail 16 16) 255) = none ∧
    checkRecord busy 5 (ask { tail 4 4 with bulkDelay := 1024 } 4) = some .delayRange ∧
    checkRecord busy 5 (ask { tail 4 4 with bulkDelay := 1023 } 4) = some .cellRange ∧
    checkRecord busy 5 (ask (tail 4 4) 254) = some .cellRange ∧ checkRecord busy 5 (ask (tail 4 4) 3) = none ∧
    checkRecord busy 5 { ask (tail 0 0) 4 with namesEcho := false, namesCancel := false } = none := by decide +kernel

/-- A header of layout 1 whose fields lie below their ranges, and one whose fields lie above. -/
theorem witness_HeaderTakenOrRefused :
    let low := parseHeader [1, 0, 0, 0, 0, 0, 0, 1]
    let high := parseHeader [1, 33, 0x100FF, 0xFFFF, 0x14, 0x00100, 0x1001, 4001]
    (2 : Word) ≠ 1 ∧ low.layout = 1 ∧ low.seats = 1 ∧ low.sh = ⟨1, false, 1024⟩ ∧ low.nh.divider = ⟨1, false, 1024⟩ ∧
    low.period = 20 ∧ high.seats = 32 ∧ high.sh = ⟨255, true, 4096⟩ ∧ high.nh.divider = ⟨255, false, 4096⟩ ∧
    high.period = 4000 ∧ (parseHeader [1, 0, 0, 0, 0x14, 0, 0, 0]).nh.divider.len = 528 := by decide +kernel

theorem busy_attachmentsOk : busy.attachmentsOk := by unfold State.attachmentsOk; decide +kernel

theorem witness_ExpiryOutcome_attachments : late.attachmentsOk := by unfold State.attachmentsOk; decide +kernel

/-- A header that leaves one seat in service: seat 1, which whispers to seat 0, and seat 2, which listens to stream 5, go out. -/
theorem witness_HeaderTakenOrRefused_leaving :
    let h := parseHeader [1, 1, 0, 0, 0, 0, 0, 0]
    let t := busy.takeHeader 9 h
    h.layout = 1 ∧ busy.attachmentsOk ∧ busy.tailOk ∧ busy.slotsOk ∧ (h.seats ≤ 1 ∧ 1 < busy.header.seats) ∧
    ¬ h.seats ≤ 0 ∧ ¬ 8 < busy.header.seats ∧ t.seats[(1 : SeatNo)].adopted.routing.mode = .idle ∧
    t.seats[(0 : SeatNo)].adopted.supervisors = [] ∧ t.slotMap[4] = none ∧ t.slotMap[3] = some 0 ∧
    t.streams[(5 : StreamNo)].listeners = 0 :=
  ⟨by decide +kernel, busy_attachmentsOk, busy_tailOk, busy_slotsOk, by decide +kernel⟩

/-- A header whose edition is the adopted one, a refused one, and an adopted one, in memory; no bus turns. -/
theorem witness_HeaderTakenOrRefused_scan :
    let at' (edition layout : Word) := { busy with io := { busy.io with
      mem := writeMemWord 0x10004 edition (writeMemWord 0x10000 layout []) } }
    busy.io.turns = [] ∧ (at' 1 1).scanHeader.header = busy.header ∧ (at' 2 2).scanHeader.header.layoutBad = true ∧
    (at' 2 1).scanHeader.header.layoutBad = false ∧ (at' 2 1).scanHeader.header.edition = some 2 ∧
    (at' 2 1).scanHeader.header.seats = 1 := by decide +kernel

/-- A stream in each state; a one-shot of 81 samples and a pass of 121, each with one sample left over; an owed and an ended
segment; each kind of count at its edges; a window that takes both words of a write-back, and ones that end at each. -/
theorem witness_StreamFetch :
    let st := { Stream.reset with state := .running, position := some (.oneShot .a 81 0x20000) }
    let pass := { Stream.reset with state := .running, narrow := true, position := some (.loop .b 0x20000 121 80) }
    let f : Fetch := ⟨{ Stream.reset with owedA := some 4 }, Io.reset, false, false, [.b], []⟩
    st.state = .running ∧ st.narrow = false ∧ (80 : Nat) < 81 ∧ pass.narrow = true ∧ 80 + 40 < 121 ∧
    Io.reset.turns = [] ∧ memoryWf Io.reset.mem = true ∧ Stream.reset.state = .disabled ∧
    { Stream.reset with state := .waiting }.state = .waiting ∧ { Stream.reset with state := .starved }.state = .starved ∧
    (f.stream.owed .a).isSome = true ∧ .b ∈ f.ended ∧ f.stream.owed .b = none ∧ f.stream.position = none ∧
    bus.lo ≤ countAt bus.area 15 .b ∧ addressAt bus.area 15 .b + 4 ≤ bus.hi ∧
    addressAt bus.area 15 .b < { bus with lo := addressAt bus.area 15 .b + 4 }.lo ∧
    { bus with hi := countAt bus.area 15 .b }.hi < countAt bus.area 15 .b + 4 := by decide +kernel

/-- R105: a final write-back that the edge of the window cuts at each of its words, and one of which each word fails. -/
theorem witness_StreamFetch_cut :
    let count := countAt bus.area 15 .b
    let final : WriteBack := ⟨.b, 0x20000, 0⟩
    let back (e : Env) (ts : List BusTurn) :=
      writeBackOne e 15 (Stream.reset, { Io.reset with turns := ts, mem := writeMemWord count 9 [] }) final
    let shows (r : Stream × Io) := (readMemWord count r.2.mem, readMemWord (addressAt bus.area 15 .b) r.2.mem, r.1.owedB)
    let posted (r : Stream × Io) := r.2.faultClass.waiting.map fun n => (n.code, n.detail0)
    let low := { bus with hi := count + 4 }
    let high := { bus with lo := count + 4 }
    shows (back low []) = (0, 0, some 0x20000) ∧
    posted (back low []) = [(.windowRefused, BitVec.ofNat 32 (count + 4))] ∧
    shows (back high []) = (9, 0x20000, some 0x20000) ∧
    posted (back high []) = [(.windowRefused, BitVec.ofNat 32 count)] ∧
    shows (back bus [⟨[], true⟩, ⟨[], false⟩]) = (0, 0, some 0x20000) ∧
    posted (back bus [⟨[], true⟩, ⟨[], false⟩]) = [(.writeFailed, BitVec.ofNat 32 (count + 4))] ∧
    shows (back bus [⟨[], false⟩, ⟨[], true⟩]) = (9, 0x20000, some 0x20000) ∧
    posted (back bus [⟨[], false⟩, ⟨[], true⟩]) = [(.writeFailed, BitVec.ofNat 32 count)] := by
  decide +kernel

/-- A fetch at a read that fails, with one-shot and loop positions at their last sample; write-backs of both segments; a
count word that fails, an address word that does, and both. -/
theorem witness_StreamFetch_errors :
    let failing : Io := { Io.reset with turns := [⟨[], true⟩] }
    let shot := { Stream.reset with state := .running, position := some (.oneShot .a 1 0x20000)
                                    backs := [⟨.b, 4, 0⟩, ⟨.a, 2, 3⟩] }
    let f : Fetch := ⟨shot, failing, false, false, [.b], []⟩
    let after := consume bus 15 f
    (∃ ts, failing.turns = ⟨[], true⟩ :: ts) ∧ f.stream.backs = [⟨.b, 4, 0⟩] ++ ⟨.a, 2, 3⟩ :: [] ∧
    after.stream.backs = [⟨.b, 4, 0⟩, ⟨.a, 0x20002, 0⟩] ∧ after.silent = true ∧ after.failed = true ∧
    after.stream.state = .starved ∧ after.ended = [.a, .b] ∧
    (after.io.faultClass.waiting.map fun n => (n.code, n.source, n.detail0, n.detail1)) =
      [(.readFailed, .stream 15, 0x20000, 1)] ∧
    (readSegment bus 15 .a f).1 = .unplayable true ∧
    (readSegment bus 15 .a { f with io := { failing with turns := [⟨[], false⟩, ⟨[], true⟩] } }).1 = .unplayable false ∧
    (startFetch bus 15 { f with stream := { shot with position := none } }).stream.state = .running ∧
    (startFetch bus 15 { f with stream := { shot with position := none } }).stream.framesStarved = 0 := by
  refine ⟨⟨[], rfl⟩, ?_⟩
  decide +kernel

theorem witness_StreamFetch_counts : playableCount 1 ∧ playableCount 16777215 ∧ playableCount (-16777215) ∧
    ¬ playableCount 16777216 ∧ ¬ playableCount (-16777216) ∧ ¬ playableCount 0 := by
  unfold playableCount; decide +kernel

/-- The first cell of a seat's order with its buffer prepared in the frame before. -/
def readyPrompt : PromptUnit :=
  { PromptUnit.reset with order := [⟨2, .posted, none⟩], stage := .ready,
                          clip := some ⟨0x20000, 200, false, 0⟩, filled := 80 }

theorem witness_PromptPlaysOrWaits : readyPrompt.due = true ∧ readyPrompt.clip = some ⟨0x20000, 200, false, 0⟩ ∧
    readyPrompt.last = false ∧ { readyPrompt with last := true }.due = true := by decide +kernel

/-- A bus side with a cell of seat 3: cell 2 names clip 63, a NARROW one of 41 samples, and reads POSTED. -/
def prompted : Io :=
  let cell := cellAt bus.area 3 2
  let entry := clipAt bus.area 63
  { Io.reset with mem := writeMemWord (entry + 4) 41 (writeMemWord (entry + 8) 1 (writeMemWord entry 0x20001
      (writeMemWord (cell + 8) 77 (writeMemWord (cell + 4) 63 (writeMemWord cell 1 [])))) ) }

/-- A cell that prepares, one whose clip word or entry fails, one with a bad index or length, one that carries a mark, and
one that is prepared again; a clip with one sample after a full buffer, and one that ends at it. -/
theorem witness_PromptPlaysOrWaits_preparation :
    let fresh := { readyPrompt with stage := .fresh, clip := none }
    let again := { readyPrompt with stage := .again, clip := some ⟨0x20000, 41, true, 40⟩ }
    let failing (m : Nat) := { prompted with turns := List.replicate m ⟨[], false⟩ ++ [⟨[], true⟩] }
    fresh.order = ⟨2, .posted, none⟩ :: [] ∧ fresh.stage = .fresh ∧ prompted.turns = [] ∧ PromptUnit.reset.order = [] ∧
    (readMemWord (cellAt bus.area 3 2 + 4) prompted.mem).toNat ≤ 63 ∧
    63 < (64 : Word).toNat ∧ (0 : Word).toNat = 0 ∧ 16777215 < (16777216 : Word).toNat ∧
    (promptFrame bus 3 false fresh prompted).ended = none ∧
    (promptFrame bus 3 false fresh prompted).unit.clip = some ⟨0x20000, 41, true, 0⟩ ∧
    (promptFrame bus 3 false fresh prompted).unit.tag = 77 ∧
    (∀ m, m < 5 → (promptFrame bus 3 false fresh (failing m)).ended = some .failed) ∧
    (promptFrame bus 3 false fresh (failing 1)).unit.tag = 0 ∧
    (promptFrame bus 3 false fresh (failing 5)).ended = some .failed ∧
    { again with order := [⟨2, .playing, some .cancelled⟩] }.stage ≠ .started ∧
    (promptFrame bus 3 false again prompted).unit.filled = 1 ∧ min 40 (41 - 40) = 1 ∧ min 40 (40 - 40) = 0 := by
  decide +kernel

/-- A cell that owes its write, a new one, a stale one, and one that reads its expected state and not; writes of a marked,
an ended, a started and a waiting cell, inside the window, outside it and across its end. -/
theorem witness_PromptPlaysOrWaits_cells :
    let owes := { PromptUnit.reset with owed := [⟨2, .played, some 5⟩] }
    let two := { PromptUnit.reset with order := [⟨2, .playing, none⟩, ⟨0, .posted, some .cancelled⟩], stale := [3] }
    let frame : PromptFrame := ⟨none, some .paused, two, prompted⟩
    let at' := cellAt bus.area 3 2
    (∃ o ∈ owes.owed, o.cell = 2) ∧ (∀ o ∈ two.owed, o.cell ≠ 2) ∧ (∀ q ∈ two.order, q.cell ≠ 1) ∧
    (two.order.map Cue.cell).Nodup ∧ decodeCell (readMemWord at' prompted.mem) = .posted ∧
    writeOf frame 3 = some ⟨3, none, .finished .abandoned⟩ ∧ writeOf frame 1 = none ∧
    writeOf frame 0 = some ⟨0, some 0, .finished .cancelled⟩ ∧ writeOf frame 2 = some ⟨2, some 0, .live .paused⟩ ∧
    writeOf { frame with ended := some .failed } 2 = some ⟨2, some 0, .finished .failed⟩ ∧
    memoryWf prompted.mem = true ∧ (bus.lo ≤ at' ∧ at' + 16 ≤ bus.hi) ∧ ¬ at' + 16 ≤ { bus with hi := at' + 15 }.hi ∧
    (makeWrite { bus with hi := at' + 15 } 3 (two, prompted) ⟨2, some 9, .finished .played⟩).1.owed =
      [⟨2, .played, some 9⟩] ∧
    (endCells bus 3 frame).1.order = [⟨2, .paused, none⟩] ∧
    (endCells bus 3 { frame with ended := some .played }).1.order = [] := by decide +kernel

/-- R121: a cell write of which the window takes the state word alone, and one of which it takes the samples word alone. -/
theorem witness_PromptPlaysOrWaits_cut :
    let at' := cellAt bus.area 3 2
    let write (e : Env) := makeWrite e 3 (PromptUnit.reset, prompted) ⟨2, some 9, .finished .played⟩
    let shows (r : PromptUnit × Io) := (readMemWord at' r.2.mem, readMemWord (at' + 12) r.2.mem, r.1.owed)
    shows (write { bus with hi := at' + 15 }) = (0x104, 0, [⟨2, .played, some 9⟩]) ∧
    shows (write { bus with lo := at' + 12 }) = (1, 9, [⟨2, .played, some 9⟩]) := by decide +kernel

theorem witness_NoticesFold :
    let n : Notice := ⟨.slip, .network, 9, 0, 2, 1, 1⟩
    (∀ y ∈ [(⟨.locked, .network, 3, 0, 0, 0, 0⟩ : Notice)], n.sameEvent y = false) ∧
    n.sameEvent ⟨.slip, .network, 3, 4294967295, 1, 0, 0⟩ = true ∧ (4294967294 : Nat) < 4294967295 := by decide

/-- The served HIGHWAY slot; a window that ends before its held word, one that ends after its first word, and none of it. -/
theorem witness_ServedSlotHoldsNotice :
    let base := slotAt bus.area .highway
    busy.io.posted .highway = false ∧ (busy.io.cls .highway).waiting = ⟨.slip, .network, 3, 2, 1, 1, 0⟩ :: [] ∧
    busy.io.turns = [] ∧ memoryWf busy.io.mem = true ∧ bus.lo ≤ base ∧ base + 32 ≤ bus.hi ∧
    (busy.io.cls .seat).waiting = [] ∧ base + (4 * 7 + 4) % 32 < { bus with lo := base + 4 }.lo ∧
    (∀ m, m < 7 → { bus with lo := base + 4 }.lo ≤ base + (4 * m + 4) % 32 ∧
      base + (4 * m + 4) % 32 + 4 ≤ { bus with lo := base + 4 }.hi) ∧
    { bus with hi := base + 8 }.hi < base + (4 * 1 + 4) % 32 + 4 ∧
    base + (4 * 0 + 4) % 32 + 4 ≤ { bus with hi := base + 8 }.hi ∧
    { bus with hi := 0 }.hi < base + (4 * 0 + 4) % 32 + 4 := by decide +kernel

theorem witness_HeldReadTakesBack :
    let io := busy.io.setCls .seat { waiting := [], shown := some ⟨.talkKey, .seat 3, 5, 0, 1, 0, 0⟩ }
    let failing := { io with turns := [⟨[], true⟩] }
    io.turns = [] ∧ io.posted .seat = true ∧ readMemWord (slotAt bus.area .seat) io.mem = 0 ∧
    failing.turns = ⟨[], true⟩ :: [] ∧ failing.posted .seat = true ∧ (heldRead bus failing .seat).posted .seat = true ∧
    ((heldRead bus failing .seat).faultClass.waiting.map fun n => (n.code, n.source, n.detail0, n.detail1)) =
      [(.readFailed, .noticeUnit, 0x10100, 0)] ∧ io.posted .fault = false := by decide +kernel

end Sys2Proof.Tests
end

section
/-! The law of the Network Highway slots (1.3, R6).  The law speaks of two things only, the ROUTING settings of the seats and
the slot map, so a state is reduced to its `SlotView`.  Every operation of the model is either an equation between the views
before and after it, or leaves the view alone; an adopted record and a seat that leaves service are both
`SlotView.adopt`. -/

namespace Sys2Proof.SlotLaw

open Sys2Proof.Machine Sys2Proof.Laws

/-! ## The view that the law speaks of -/

/-- The part of a state that the slot law speaks of. -/
@[ext] structure SlotView where
  routing : SeatNo → Routing
  slots : SlotNo → Option SeatNo

/-- What a state shows of seats' ROUTING and of the slot map. -/
def slotView (s : State) : SlotView := ⟨fun k => s.seats[k].adopted.routing, fun n => s.slotMap[n]⟩

/-- The slot that a seat with this ROUTING holds (R6): `Settings.slot`, which reads nothing else of the settings. -/
def heldSlot (r : Routing) : Option Nat := if r.mode.holdsSlot then r.nhSlot else none

theorem heldSlot_eq_some {r : Routing} {n : Nat} :
    heldSlot r = some n ↔ r.mode.holdsSlot = true ∧ r.nhSlot = some n := by
  simp [heldSlot]

theorem heldSlot_of_holdsSlot {r : Routing} (h : r.mode.holdsSlot = true) : heldSlot r = r.nhSlot := by
  simp [heldSlot, h]

theorem heldSlot_of_not_holdsSlot {r : Routing} (h : r.mode.holdsSlot = false) : heldSlot r = none := by
  simp [heldSlot, h]

namespace SlotView

/-- The law of the slot map of a view: a seat in TALK or HOLD names a slot, and the map has a seat's number at the slot that
the seat holds and at no other. -/
def ok (v : SlotView) : Prop :=
  (∀ k, (v.routing k).mode.holdsSlot = true → ∃ n : SlotNo, (v.routing k).nhSlot = some n.val) ∧
  ∀ k n, v.slots n = some k ↔ heldSlot (v.routing k) = some n.val

/-- A seat's ROUTING replaced, the slot map left alone. -/
def route (v : SlotView) (k : SeatNo) (r : Routing) : SlotView := { v with routing := Function.update v.routing k r }

/-- A slot claimed (R5). -/
def claim (v : SlotView) (k : SeatNo) (n : SlotNo) : SlotView :=
  { v with slots := fun m => if n = m then some k else v.slots m }

/-- A seat's entries freed, but for the slot it keeps (R5). -/
def free (v : SlotView) (k : SeatNo) (keep : Option Nat) : SlotView :=
  { v with slots := fun m => if v.slots m = some k ∧ keep ≠ some m.val then none else v.slots m }

/-- A seat's ROUTING replaced, with the one entry of the slot map that it is due. -/
def adopt (v : SlotView) (k : SeatNo) (r : Routing) : SlotView :=
  { routing := Function.update v.routing k r
    slots := fun n =>
      if heldSlot r = some n.val then some k else if v.slots n = some k then none else v.slots n }

/-- The slot that ROUTING settings of a seat ask for is in range, and free or the seat's own (Table 1-6). -/
def admits (v : SlotView) (k : SeatNo) (r : Routing) : Prop :=
  r.mode.holdsSlot = true → ∃ n : SlotNo, r.nhSlot = some n.val ∧ ∀ j, v.slots n = some j → j = k

variable {v : SlotView} {k : SeatNo} {r : Routing} {n : SlotNo}

theorem admits_of_not_holdsSlot (hr : r.mode.holdsSlot = false) : v.admits k r := fun h => by simp [hr] at h

/-- In a view that keeps the law, a seat may have the ROUTING that it has. -/
theorem ok.admits_self (hv : v.ok) (k : SeatNo) : v.admits k (v.routing k) := fun h => by
  obtain ⟨n, hn⟩ := hv.1 k h
  have held : v.slots n = some k := (hv.2 k n).2 ((heldSlot_of_holdsSlot h).trans hn)
  exact ⟨n, hn, fun j hj => Option.some.inj (hj.symm.trans held)⟩

/-- No other seat holds an admitted slot. -/
theorem admits.only_holder (hadm : v.admits k r) {j : SeatNo} (hn : heldSlot r = some n.val) (hj : v.slots n = some j) :
    j = k := by
  obtain ⟨hholds, hslot⟩ := heldSlot_eq_some.1 hn
  obtain ⟨m, hm, hfree⟩ := hadm hholds
  have hmn : m = n := Fin.ext (Option.some.inj (hm.symm.trans hslot))
  exact hfree j (hmn ▸ hj)

/-- Adopting admitted ROUTING keeps the law. -/
theorem ok.adopt (hv : v.ok) (hadm : v.admits k r) : (v.adopt k r).ok := by
  refine ⟨fun j => ?_, fun j n => ?_⟩
  · by_cases hj : j = k
    · subst hj
      simpa [SlotView.adopt] using fun h => (hadm h).imp fun _ hn => hn.1
    · simpa [SlotView.adopt, hj] using hv.1 j
  · by_cases hj : j = k
    · subst hj
      by_cases hn : heldSlot r = some n.val
      · simp [SlotView.adopt, hn]
      · simp only [SlotView.adopt, Function.update_self, hn, if_false, iff_false]
        split <;> simp_all
    · have hroute : (v.adopt k r).routing j = v.routing j := Function.update_of_ne hj _ _
      rw [hroute, ← hv.2 j n]
      by_cases hn : heldSlot r = some n.val
      · have other : v.slots n ≠ some j := fun h => hj (hadm.only_holder hn h)
        simp [SlotView.adopt, hn, other, Ne.symm hj]
      · simp only [SlotView.adopt, hn, if_false]
        split <;> simp_all [Ne.symm hj]

/-- ROUTING that holds what the seat's ROUTING held asks nothing of the slot map. -/
theorem ok.route_eq_adopt (hv : v.ok) (h : heldSlot (v.routing k) = heldSlot r) : v.route k r = v.adopt k r := by
  refine SlotView.ext rfl (funext fun n => ?_)
  have hk : v.slots n = some k ↔ heldSlot r = some n.val := h ▸ hv.2 k n
  by_cases hn : heldSlot r = some n.val
  · simp [SlotView.adopt, route, hn, hk.2 hn]
  · simp [SlotView.adopt, route, hn, mt hk.1 hn]

/-- Adopting the ROUTING a seat has changes nothing. -/
theorem ok.adopt_self (hv : v.ok) (k : SeatNo) : v.adopt k (v.routing k) = v :=
  (hv.route_eq_adopt rfl).symm.trans (by simp [route])

/-- Leaving TALK and HOLD frees a slot that was held. -/
theorem ok.leave_eq_adopt (hv : v.ok) (hr : r.mode.holdsSlot = false) :
    (if (v.routing k).mode.holdsSlot = true then (v.route k r).free k none else v.route k r) = v.adopt k r := by
  have hnone := heldSlot_of_not_holdsSlot hr
  split
  · simp [SlotView.adopt, free, route, hnone]
  · next hold => exact hv.route_eq_adopt ((heldSlot_of_not_holdsSlot (by simpa using hold)).trans hnone.symm)

/-- Entering TALK or HOLD claims the slot. -/
theorem ok.claim_eq_adopt (hv : v.ok) (hold : (v.routing k).mode.holdsSlot = false) (hn : heldSlot r = some n.val) :
    (v.route k r).claim k n = v.adopt k r := by
  have none_held (m : SlotNo) : v.slots m ≠ some k := fun hm => by
    simpa [heldSlot_of_not_holdsSlot hold] using (hv.2 k m).1 hm
  simp [SlotView.adopt, claim, route, hn, none_held, Fin.ext_iff]

/-- A move within TALK and HOLD claims the new slot, then frees the old one (R10). -/
theorem move_eq_adopt (hn : heldSlot r = some n.val) :
    ((v.route k r).claim k n).free k (some n.val) = v.adopt k r := by
  refine SlotView.ext rfl (funext fun m => ?_)
  by_cases hm : n = m
  · simp [SlotView.adopt, free, claim, route, hn, hm]
  · simp [SlotView.adopt, free, claim, route, hn, hm, Fin.val_inj]

end SlotView

theorem slotsOk_iff (s : State) : s.slotsOk ↔ (slotView s).ok := by
  unfold State.slotsOk SlotView.ok
  simp only [heldSlot_eq_some]
  refine ⟨fun ⟨hslot, hmap, _⟩ => ⟨hslot, hmap⟩, fun ⟨hslot, hmap⟩ => ⟨hslot, hmap, ?_⟩⟩
  refine fun i j hij hi hj heq => hij ?_
  obtain ⟨n, hn⟩ := hslot i hi
  exact Option.some.inj (((hmap i n).2 ⟨hi, hn⟩).symm.trans ((hmap j n).2 ⟨hj, heq.symm.trans hn⟩))

/-! ## The named updates -/

variable {s t : State}

/-- Seats replaced by others of the same ROUTING. -/
theorem slotView_congr_routing (hseats : ∀ k : SeatNo, t.seats[k].adopted.routing = s.seats[k].adopted.routing)
    (hmap : t.slotMap = s.slotMap) : slotView t = slotView s :=
  SlotView.ext (funext hseats) (by rw [slotView, hmap]; rfl)

theorem slotView_congr (hseats : t.seats = s.seats) (hmap : t.slotMap = s.slotMap) : slotView t = slotView s :=
  slotView_congr_routing (fun _ => by rw [hseats]) hmap

/-- What leaves the view alone keeps the law. -/
theorem slotsOk_of_slotView_eq (h : slotView t = slotView s) (hok : s.slotsOk) : t.slotsOk := by
  rw [slotsOk_iff] at hok ⊢
  rwa [h]

/-- A fold of operations that leave the view alone. -/
theorem foldl_slotView {α : Type} {f : State → α → State} (h : ∀ s a, slotView (f s a) = slotView s) (l : List α)
    (s : State) : slotView (l.foldl f s) = slotView s := by
  induction l generalizing s with
  | nil => rfl
  | cons a l ih => exact (ih _).trans (h s a)

/-- The same of a fold that carries a state beside something else. -/
theorem foldl_snd_slotView {α β : Type} {f : β × State → α → β × State}
    (h : ∀ x a, slotView (f x a).2 = slotView x.2) (l : List α) (x : β × State) :
    slotView (l.foldl f x).2 = slotView x.2 := by
  induction l generalizing x with
  | nil => rfl
  | cons a l ih => exact (ih _).trans (h x a)

/-- A fold of operations that keep the law. -/
theorem foldl_slotsOk {α : Type} {f : State → α → State} (h : ∀ s a, s.slotsOk → (f s a).slotsOk) (l : List α)
    (hs : s.slotsOk) : (l.foldl f s).slotsOk :=
  List.foldlRecOn l f hs fun t ht a _ => h t a ht

@[simp] theorem slotView_setIo (s : State) (io : Io) : slotView (s.setIo io) = slotView s := rfl

@[simp] theorem slotView_hand (s : State) (c : Code) (src : Source) (d0 d1 d2 : Word) :
    slotView (s.hand c src d0 d1 d2) = slotView s := rfl

@[simp] theorem slotView_modStream (s : State) (j : StreamNo) (f : Stream → Stream) :
    slotView (s.modStream j f) = slotView s := rfl

@[simp] theorem slotView_modSeat {k : SeatNo} {f : Seat → Seat} (h : ∀ x, (f x).adopted.routing = x.adopted.routing) :
    slotView (s.modSeat k f) = slotView s :=
  slotView_congr_routing (fun j => by rw [modSeat_get]; split <;> simp_all) rfl

@[simp] theorem slotView_mapSeats {f : Seat → Seat} (h : ∀ x, (f x).adopted.routing = x.adopted.routing) :
    slotView (s.mapSeats f) = slotView s :=
  slotView_congr_routing (fun j => by rw [mapSeats_seats, tabulate_get, h]) rfl

@[simp] theorem slotView_modAdopted {k : SeatNo} {f : Settings → Settings} (h : ∀ g, (f g).routing = g.routing) :
    slotView (s.modAdopted k f) = slotView s := slotView_modSeat fun _ => h _

@[simp] theorem slotView_modDue (s : State) (k : SeatNo) (f : Due → Due) : slotView (s.modDue k f) = slotView s :=
  slotView_modSeat fun _ => rfl

/-- Setting a seat's ROUTING, whatever else is changed of its adopted settings. -/
theorem slotView_modAdopted_routing {k : SeatNo} {f : Settings → Settings} {r : Routing}
    (h : (f s.seats[k].adopted).routing = r) : slotView (s.modAdopted k f) = (slotView s).route k r := by
  refine SlotView.ext (funext fun j => ?_) rfl
  simp only [slotView, SlotView.route, modAdopted_eq, modSeat_get, Function.update_apply, eq_comm (a := j)]
  split
  · exact h
  · rfl

/-! ## The Tail Pool, the attachment lists and the streams -/

@[simp] theorem slotView_releaseTail (s : State) (k : SeatNo) (keep : Nat) :
    slotView (s.releaseTail k keep) = slotView s :=
  slotView_congr_routing (fun j => by rw [State.releaseTail, modSeat_get]; split <;> simp_all) rfl

@[simp] theorem slotView_grantTail (s : State) (k : SeatNo) (n : Nat) : slotView (s.grantTail k n) = slotView s :=
  slotView_congr_routing (fun j => by rw [State.grantTail, modSeat_get]; split <;> simp_all) rfl

@[simp] theorem slotView_setWaiting (s : State) (k : SeatNo) (w : Bool) : slotView (s.setWaiting k w) = slotView s :=
  slotView_modSeat fun _ => rfl

@[simp] theorem slotView_poolShort (s : State) (k : SeatNo) (e : Echo) : slotView (s.poolShort k e) = slotView s := rfl

@[simp] theorem slotView_requestTail (s : State) (k : SeatNo) (loud : Bool) :
    slotView (s.requestTail k loud) = slotView s := by
  simp [State.requestTail, apply_ite slotView]

@[simp] theorem slotView_retryTail (s : State) (k : SeatNo) : slotView (s.retryTail k) = slotView s := by
  simp [State.retryTail, apply_ite slotView]

@[simp] theorem slotView_growTail (s : State) (k : SeatNo) : slotView (s.growTail k) = slotView s := by
  simp [State.growTail, apply_ite slotView]

@[simp] theorem slotView_dropTail (s : State) (k : SeatNo) : slotView (s.dropTail k) = slotView s := by
  simp [State.dropTail]

@[simp] theorem slotView_resizeTail (s : State) (k : SeatNo) (old : Nat) :
    slotView (s.resizeTail k old) = slotView s := by
  simp [State.resizeTail, apply_ite slotView]

@[simp] theorem slotView_leaveTarget (s : State) (k : SeatNo) : slotView (s.leaveTarget k) = slotView s := by
  unfold State.leaveTarget
  split
  · rfl
  · simp

@[simp] theorem slotView_attach (s : State) (k t : SeatNo) (kind : Kind) (ptt : Bool) :
    slotView (s.attach k t kind ptt) = slotView s := by
  simp [State.attach]

@[simp] theorem slotView_reattach (s : State) (k t : SeatNo) (kind : Kind) (ptt : Bool) :
    slotView (s.reattach k t kind ptt) = slotView s := slotView_modAdopted fun _ => rfl

@[simp] theorem slotView_detachOne (t : SeatNo) (cause : Word) (s : State) (a : Attachment) :
    slotView (detachOne t cause s a) = slotView s := by
  simp [detachOne]

@[simp] theorem slotView_detachAll (s : State) (t : SeatNo) (cause : Word) :
    slotView (s.detachAll t cause) = slotView s := by
  simp [State.detachAll, foldl_slotView (slotView_detachOne t cause)]

@[simp] theorem slotView_joinHold (s : State) (n : Nat) : slotView (s.joinHold n) = slotView s := by
  unfold State.joinHold
  split <;> rfl

@[simp] theorem slotView_leaveHold (s : State) (n : Nat) : slotView (s.leaveHold n) = slotView s := by
  unfold State.leaveHold
  split <;> rfl

/-! ## Changes of mode -/

@[simp] theorem slotView_freeSlots (s : State) (k : SeatNo) (keep : Option Nat) :
    slotView (s.freeSlots k keep) = (slotView s).free k keep :=
  SlotView.ext rfl (funext fun n => tabulate_get _ n)

@[simp] theorem slotView_claimSlot (s : State) (k : SeatNo) (n : SlotNo) :
    slotView (s.claimSlot k n.val) = (slotView s).claim k n := by
  simp [slotView, State.claimSlot, SlotView.claim, Vector.getElem_set, Fin.ext_iff]

@[simp] theorem slotView_enterHold (s : State) (k : SeatNo) : slotView (s.enterHold k) = slotView s := by
  simp [State.enterHold, apply_ite slotView]

@[simp] theorem slotView_exitHold (s : State) (k : SeatNo) (old : Settings) :
    slotView (s.exitHold k old) = slotView s := by
  simp [State.exitHold, apply_ite slotView]

@[simp] theorem slotView_exitIdle (s : State) (k : SeatNo) (old : Settings) :
    slotView (s.exitIdle k old) = slotView s := by
  simp [State.exitIdle, apply_ite slotView]

@[simp] theorem slotView_changeHold (s : State) (k : SeatNo) (old : Settings) (r : Routing) :
    slotView (s.changeHold k old r) = slotView s := by
  unfold State.changeHold
  split <;> simp [apply_ite slotView]

@[simp] theorem slotView_leaveCall (s : State) (k : SeatNo) (old : Settings) :
    slotView (s.leaveCall k old) =
      if old.routing.mode.holdsSlot = true then (slotView s).free k none else slotView s := by
  simp [State.leaveCall, apply_ite slotView]

@[simp] theorem slotView_enterIdle (s : State) (k : SeatNo) (old : Settings) :
    slotView (s.enterIdle k old) =
      if old.routing.mode.holdsSlot = true then (slotView s).free k none else slotView s := by
  simp [State.enterIdle, apply_ite slotView]

theorem slotView_enterCall (k : SeatNo) (old : Settings) {r : Routing} {n : SlotNo} (hn : r.nhSlot = some n.val) :
    slotView (s.enterCall k old r).1 = (slotView s).claim k n := by
  simp [State.enterCall, hn, apply_ite slotView]

theorem slotView_stayInCall (k : SeatNo) (old : Settings) {r : Routing} {n : SlotNo} (hn : r.nhSlot = some n.val) :
    slotView (s.stayInCall k old r) =
      if old.routing.nhSlot = r.nhSlot then slotView s else ((slotView s).claim k n).free k (some n.val) := by
  simp [State.stayInCall, State.moveSlot, hn, apply_ite slotView]

/-- Entering SUPERVISE, or a change within it; in SUPERVISE no slot is held. -/
theorem slotView_supervise (k : SeatNo) (old : Settings) {r : Routing} {kind : Kind} {t : SeatNo}
    (hkind : decodeKind r.kind = some kind) (ht : r.target = some t.val) :
    slotView (s.supervise k old r) =
      if old.routing.mode.holdsSlot = true then (slotView s).free k none else slotView s := by
  by_cases hold : old.routing.mode = .supervise
  · simp [State.supervise, hkind, ht, hold, apply_ite slotView, Mode.holdsSlot]
  · simp [State.supervise, hkind, ht, hold]

/-! ## The ROUTING checks (Table 1-6) -/

theorem checkSlot_eq_none {k : SeatNo} {n : Nat} (h : checkSlot s k n = none) :
    ∃ m : SlotNo, n = m.val ∧ ∀ j, (slotView s).slots m = some j → j = k := by
  unfold checkSlot at h
  split at h
  · next hn =>
    refine ⟨⟨n, hn⟩, rfl, fun j hj => ?_⟩
    have hj' : s.slotMap[n] = some j := hj
    simpa [hj'] using h
  · simp at h

theorem checkTarget_eq_none {k : SeatNo} {n : Nat} (h : checkTarget s k n = none) : ∃ t : SeatNo, n = t.val := by
  unfold checkTarget at h
  split at h
  · next hn => exact ⟨⟨n, hn⟩, rfl⟩
  · simp at h

/-- A record that passes the ROUTING checks asks for a slot the seat may have. -/
theorem admits_of_checkRouting {k : SeatNo} {r : RoutingRecord} (h : checkRouting s k r = none) :
    (slotView s).admits k r.adopt := by
  have slot : checkSlot s k r.nhSlot = none → (slotView s).admits k r.adopt := fun hs _ =>
    (checkSlot_eq_none hs).imp fun _ hm => ⟨congrArg some hm.1, hm.2⟩
  unfold checkRouting at h
  split at h
  · simp at h
  · next hmode => exact SlotView.admits_of_not_holdsSlot (by simp [RoutingRecord.adopt, hmode, Mode.holdsSlot])
  · exact slot h
  · exact slot (Option.or_eq_none_iff.1 h).1
  · next hmode => exact SlotView.admits_of_not_holdsSlot (by simp [RoutingRecord.adopt, hmode, Mode.holdsSlot])

/-- SUPERVISE settings name a kind and a seat. -/
def supervisesSeat (r : Routing) : Prop :=
  r.mode = .supervise → ∃ (kind : Kind) (t : SeatNo), decodeKind r.kind = some kind ∧ r.target = some t.val

theorem supervisesSeat_of_checkRouting {k : SeatNo} {r : RoutingRecord} (h : checkRouting s k r = none) :
    supervisesSeat r.adopt := by
  intro hsup
  have hmode : decodeMode r.mode = some .supervise := by
    cases hm : decodeMode r.mode <;> simp_all [RoutingRecord.adopt]
  unfold checkRouting at h
  simp only [hmode] at h
  split at h
  · simp at h
  · next hkind =>
    obtain ⟨kind, hkind⟩ := Option.ne_none_iff_exists'.1 (by simpa using hkind)
    obtain ⟨t, ht⟩ := checkTarget_eq_none h
    exact ⟨kind, t, hkind, congrArg some ht⟩

/-! ## Adopted records -/

/-- A change within TALK and HOLD. -/
theorem slotView_stayInCall_eq_adopt {k : SeatNo} {old : Settings} {r : Routing} {n : SlotNo} {v : SlotView} (hv : v.ok)
    (hold : old.routing = v.routing k) (hcall : old.routing.mode.holdsSlot = true) (hn : heldSlot r = some n.val)
    (hs : slotView s = v.route k r) : slotView (s.stayInCall k old r) = v.adopt k r := by
  obtain ⟨hr, hslot⟩ := heldSlot_eq_some.1 hn
  rw [slotView_stayInCall k old hslot, hs]
  split
  · next same =>
    exact hv.route_eq_adopt (by rw [← hold, heldSlot_of_holdsSlot hcall, heldSlot_of_holdsSlot hr, same])
  · exact SlotView.move_eq_adopt hn

/-- Step 2 of an adoption (R184) gives the seat the slot that its new ROUTING holds and no other. -/
theorem slotView_applyRouting {k : SeatNo} {old : Settings} {r : Routing} (hok : (slotView s).ok)
    (hold : old.routing = (slotView s).routing k) (hadm : (slotView s).admits k r) (hsup : supervisesSeat r) :
    slotView (s.applyRouting k old r).1 = (slotView s).adopt k r := by
  unfold State.applyRouting
  extract_lets u w
  have hw : slotView w = (slotView s).route k r := by
    have hu : slotView u = (slotView s).route k r := slotView_modAdopted_routing rfl
    simp [w, hu, apply_ite slotView]
  have leaves (hr : r.mode.holdsSlot = false) :
      (if old.routing.mode.holdsSlot = true then (slotView w).free k none else slotView w) = (slotView s).adopt k r := by
    rw [hw, hold]
    exact hok.leave_eq_adopt hr
  have call (hr : r.mode.holdsSlot = true) :
      slotView (if old.routing.mode.holdsSlot = true then (w.stayInCall k old r, false) else w.enterCall k old r).1 =
        (slotView s).adopt k r := by
    obtain ⟨n, hn, -⟩ := hadm hr
    have hheld : heldSlot r = some n.val := (heldSlot_of_holdsSlot hr).trans hn
    split
    · next hcall => exact slotView_stayInCall_eq_adopt hok hold hcall hheld hw
    · next hcall =>
      rw [slotView_enterCall k old hn, hw]
      exact hok.claim_eq_adopt (by simpa [hold] using hcall) hheld
  cases hmode : r.mode with
  | idle =>
    have hr : r.mode.holdsSlot = false := by simp [hmode, Mode.holdsSlot]
    by_cases hidle : old.routing.mode = .idle
    · simpa [hidle, Mode.holdsSlot] using leaves hr
    · simpa [hidle] using leaves hr
  | supervise =>
    obtain ⟨kind, t, hkind, ht⟩ := hsup hmode
    exact (slotView_supervise k old hkind ht).trans (leaves (by simp [hmode, Mode.holdsSlot]))
  | talk => exact call (by simp [hmode, Mode.holdsSlot])
  | hold => exact call (by simp [hmode, Mode.holdsSlot])

@[simp] theorem slotView_applyEcho (s : State) (k : SeatNo) (old new : Echo) (clear asked : Bool) :
    slotView (s.applyEcho k old new clear asked).1 = slotView s := by
  unfold State.applyEcho
  split
  · split
    · split <;> simp [apply_ite slotView]
    · simp
  · rfl

@[simp] theorem slotView_applyCadence (s : State) (k : SeatNo) (old new : Cadence) (restart : Bool) :
    slotView (s.applyCadence k old new restart) = slotView s := slotView_modDue ..

@[simp] theorem slotView_applyCancel (s : State) (k : SeatNo) (all : Bool) (cell : Nat) :
    slotView (s.applyCancel k all cell) = slotView s := slotView_modSeat fun _ => rfl

@[simp] theorem slotView_takeEdition (s : State) (k : SeatNo) (edition : Word) :
    slotView (s.takeEdition k edition) = slotView s := slotView_modSeat fun _ => rfl

/-- The ROUTING settings that a record leaves a seat with. -/
def routingAfter (s : State) (k : SeatNo) (r : SeatRecord) : Routing :=
  if r.namesRouting then r.routing.adopt else s.seats[k].adopted.routing

/-- Of the five steps of an adoption (R184), the second alone can change what the slot law speaks of. -/
theorem slotView_adoptSeat {k : SeatNo} {r : SeatRecord} (edition : Word) (hok : s.slotsOk)
    (hcheck : r.namesRouting = true → checkRouting s k r.routing = none) :
    slotView (s.adoptSeat k edition r).1 = (slotView s).adopt k (routingAfter s k r) := by
  have hstore : slotView (s.modAdopted k (storeGroups r)) = slotView s := slotView_modAdopted fun _ => rfl
  have hrouting : slotView (if r.namesRouting = true then
        (s.modAdopted k (storeGroups r)).applyRouting k s.seats[k].adopted r.routing.adopt
      else (s.modAdopted k (storeGroups r), false)).1 = (slotView s).adopt k (routingAfter s k r) := by
    unfold routingAfter
    split
    · next hnames =>
      rw [slotView_applyRouting (by rwa [hstore, ← slotsOk_iff]) (by rw [hstore]; rfl)
        (by rw [hstore]; exact admits_of_checkRouting (hcheck hnames)) (supervisesSeat_of_checkRouting (hcheck hnames)),
        hstore]
    · exact hstore.trans (((slotsOk_iff s).1 hok).adopt_self k).symm
  unfold State.adoptSeat
  extract_lets old u x y z w
  have hy : slotView y.1 = slotView x.1 := by
    unfold y
    split <;> simp
  have hz : slotView z = slotView y.1 := by simp [z, apply_ite slotView]
  have hw : slotView w = slotView z := by simp [w, apply_ite slotView]
  calc slotView (w.takeEdition k edition) = slotView x.1 := by rw [slotView_takeEdition, hw, hz, hy]
    _ = _ := hrouting

theorem checkRouting_of_checkRecord {k : SeatNo} {r : SeatRecord} (h : checkRecord s k r = none)
    (hnames : r.namesRouting = true) : checkRouting s k r.routing = none := by
  simpa [hnames] using (Option.or_eq_none_iff.1 (Option.or_eq_none_iff.1 h).1).1

theorem slotView_takeSeat {k : SeatNo} {r : SeatRecord} (edition : Word) (hok : s.slotsOk)
    (hcheck : checkRecord s k r = none) :
    slotView (s.takeSeat k edition r) = (slotView s).adopt k (routingAfter s k r) := by
  rw [← slotView_adoptSeat edition hok (checkRouting_of_checkRecord hcheck)]
  unfold State.takeSeat
  simp [hcheck, apply_ite slotView]

/-- A record that passes the checks leaves its seat with ROUTING that it may have. -/
theorem admits_routingAfter {k : SeatNo} {r : SeatRecord} (hok : s.slotsOk) (hcheck : checkRecord s k r = none) :
    (slotView s).admits k (routingAfter s k r) := by
  unfold routingAfter
  split
  · next hnames => exact admits_of_checkRouting (checkRouting_of_checkRecord hcheck hnames)
  · exact ((slotsOk_iff s).1 hok).admits_self k

theorem takeSeat_slotsOk (k : SeatNo) (edition : Word) (r : SeatRecord) (hok : s.slotsOk) :
    (s.takeSeat k edition r).slotsOk := by
  cases hcheck : checkRecord s k r with
  | some why => exact slotsOk_of_slotView_eq (by simp [State.takeSeat, hcheck, State.refuseSeat]) hok
  | none =>
    rw [slotsOk_iff, slotView_takeSeat edition hok hcheck]
    exact ((slotsOk_iff s).1 hok).adopt (admits_routingAfter hok hcheck)

/-! ## The scans -/

/-- A seat that leaves service is taken to IDLE and holds no slot (R1, R11). -/
theorem leaveService_slotsOk (s : State) (k : SeatNo) (hok : s.slotsOk) : (s.leaveService k).slotsOk := by
  rw [slotsOk_iff] at hok ⊢
  have hview : slotView (s.leaveService k) =
      (slotView s).adopt k { s.seats[k].adopted.routing with mode := .idle } := by
    unfold State.leaveService
    extract_lets old u w
    have hu : slotView u = (slotView s).route k { old.routing with mode := .idle } := slotView_modAdopted_routing rfl
    calc slotView (w.modSeat k _) = slotView w := by simp
      _ = _ := by rw [slotView_enterIdle, hu]; exact hok.leave_eq_adopt rfl
  rw [hview]
  exact hok.adopt (SlotView.admits_of_not_holdsSlot rfl)

theorem adoptHeader_slotsOk (edition : Word) (h : HeaderRecord) (hok : s.slotsOk) :
    (s.adoptHeader edition h).slotsOk := by
  unfold State.adoptHeader
  extract_lets left
  have hleft : left.slotsOk := foldl_slotsOk leaveService_slotsOk _ hok
  exact slotsOk_of_slotView_eq (slotView_congr rfl rfl) hleft

theorem takeHeader_slotsOk (edition : Word) (h : HeaderRecord) (hok : s.slotsOk) :
    (s.takeHeader edition h).slotsOk := by
  unfold State.takeHeader
  split
  · exact adoptHeader_slotsOk edition h hok
  · exact slotsOk_of_slotView_eq (slotView_congr rfl rfl) hok

theorem scanHeader_slotsOk (hok : s.slotsOk) : s.scanHeader.slotsOk := by
  unfold State.scanHeader State.readHeader
  extract_lets r
  split
  · exact hok
  · extract_lets words
    cases words.1 with
    | none => exact hok
    | some ws => exact takeHeader_slotsOk _ _ hok

@[simp] theorem slotView_retries (s : State) : slotView s.retries = slotView s := foldl_slotView slotView_retryTail _ s

theorem placeSeat_slotsOk (k : SeatNo) (edition : Word) (ws : Option (List Word)) (hok : s.slotsOk) :
    (s.placeSeat k edition ws).slotsOk := by
  cases ws with
  | none => exact slotsOk_of_slotView_eq (slotView_retryTail s k) hok
  | some ws => exact takeSeat_slotsOk k edition (parseSeat ws) hok

theorem seatPlace_slotsOk (s : State) (x : SeatNo × Option Word) (hok : s.slotsOk) : (seatPlace s x).slotsOk := by
  unfold seatPlace
  split
  · exact slotsOk_of_slotView_eq (slotView_retryTail s x.1) hok
  · exact placeSeat_slotsOk _ _ _ (slotsOk_of_slotView_eq (slotView_setIo ..) hok)

theorem slotView_streamPlace (s : State) (x : StreamNo × Option Word) : slotView (streamPlace s x) = slotView s := by
  unfold streamPlace
  split
  · rfl
  · extract_lets words
    cases words.1 <;> rfl

theorem slotView_readSeatEditions (s : State) : slotView (readSeatEditions s).2 = slotView s :=
  foldl_snd_slotView (f := seatEdition) (fun _ _ => slotView_setIo ..) _ ([], s)

theorem slotView_readStreamEditions (s : State) : slotView (readStreamEditions s).2 = slotView s :=
  foldl_snd_slotView (f := streamEdition) (fun _ _ => slotView_setIo ..) _ ([], s)

theorem adoptionScan_slotsOk (hok : s.slotsOk) : s.adoptionScan.slotsOk := by
  have hheader := scanHeader_slotsOk hok
  unfold State.adoptionScan
  extract_lets t a b
  split
  · exact slotsOk_of_slotView_eq (slotView_retries t) hheader
  · have ha : slotView a.2 = slotView t := slotView_readSeatEditions t
    have hb : slotView b.2 = slotView a.2 := slotView_readStreamEditions a.2
    have hread : b.2.slotsOk := slotsOk_of_slotView_eq (hb.trans ha) hheader
    exact slotsOk_of_slotView_eq (foldl_slotView slotView_streamPlace _ _) (foldl_slotsOk seatPlace_slotsOk _ hread)

@[simp] theorem slotView_cellScan (s : State) : slotView s.cellScan = slotView s :=
  foldl_slotView (fun t k => by simp [scanSeatCells]) _ s

theorem scans_slotsOk (hok : s.slotsOk) : s.scans.slotsOk := by
  unfold State.scans
  split
  · exact slotsOk_of_slotView_eq (slotView_retries s) hok
  · exact slotsOk_of_slotView_eq (slotView_cellScan _) (adoptionScan_slotsOk hok)

/-! ## The boundary -/

theorem slotView_setTick (s : State) (t : TickMonitor) : slotView { s with tick := t } = slotView s :=
  slotView_congr rfl rfl

@[simp] theorem slotView_enterStandalone (s : State) : slotView s.enterStandalone = slotView s := by
  have hdetach (t : State) (cause : Word) :
      slotView (seatNumbers.foldl (fun x k => x.detachAll k cause) t) = slotView t :=
    foldl_slotView (fun x k => slotView_detachAll x k cause) _ t
  simp [State.enterStandalone, hdetach, slotView_setTick]

theorem slotView_expire (s : State) : slotView s.expire = slotView s := by
  simp [State.expire, apply_ite slotView, slotView_setTick]

theorem expireAndScan_slotsOk (hok : s.slotsOk) : s.expireAndScan.slotsOk :=
  scans_slotsOk (slotsOk_of_slotView_eq (slotView_expire s) hok)

theorem adopted_frameWorkSeat (e : Env) (k : SeatNo) (kept : SeatNo → Kept) (i : SeatInputs) (x : Seat) (io : Io) :
    (frameWorkSeat e k kept i x io).1.adopted = x.adopted := rfl

theorem adopted_idleSeat (e : Env) (k : SeatNo) (x : Seat) (io : Io) : (idleSeat e k x io).1.adopted = x.adopted := rfl

/-- The work of a frame changes no adopted setting. -/
theorem slotView_seatWork (s0 : State) (k : SeatNo) (s : State) : slotView (seatWork s0 k s) = slotView s := by
  refine slotView_congr_routing (fun j => ?_) rfl
  by_cases hj : k.val = j.val
  · obtain rfl := Fin.ext hj
    simp only [seatWork, Fin.getElem_fin, Vector.getElem_set_self]
    split
    · rw [adopted_frameWorkSeat]
    · rw [adopted_idleSeat]
  · simp only [seatWork, Fin.getElem_fin, Vector.getElem_set_ne _ _ hj]

theorem slotView_unitWork (s0 s : State) (w : Worker) : slotView (unitWork s0 s w) = slotView s := by
  cases w with
  | seat k => exact slotView_seatWork s0 k s
  | stream j => rfl

theorem slotView_unitBacks (s : State) (w : Worker) : slotView (unitBacks s w) = slotView s := by
  cases w <;> rfl

theorem slotView_unitReport (s : State) (w : Worker) : slotView (unitReport s w) = slotView s := by
  cases w with
  | seat k => rfl
  | stream j => simp [unitReport, apply_ite slotView]

theorem slotView_frameWork (s : State) (order : List Worker) : slotView (s.frameWork order) = slotView s := by
  unfold State.frameWork
  extract_lets ws a b d n
  calc slotView { n with tick := n.tick.endFrame } = slotView (ws.foldl unitReport b) := rfl
    _ = slotView b := foldl_slotView slotView_unitReport _ _
    _ = slotView a := foldl_slotView slotView_unitBacks _ _
    _ = slotView s := foldl_slotView (slotView_unitWork s) _ _

theorem slotView_actOnRun (s : State) : slotView s.actOnRun = slotView s := by
  have hstop : slotView s.stopWork = slotView s := rfl
  have hresume : slotView s.resumeWork = slotView s :=
    (slotView_congr rfl rfl).trans (slotView_mapSeats (f := resumeSeat) fun _ => rfl)
  simp [State.actOnRun, apply_ite slotView, hstop, hresume]

theorem slotView_promote (s : State) : slotView s.promote = slotView s := by
  refine slotView_congr_routing (fun k => ?_) rfl
  simp only [State.promote, tabulate_get, openSeat]
  split <;> rfl

theorem slotView_monitorTick (s : State) : slotView s.monitorTick = slotView s := by
  unfold State.monitorTick
  extract_lets r t u
  split <;> rfl

theorem openWork_slotsOk (hok : s.slotsOk) : s.openWork.slotsOk := by
  have hmonitor : s.promote.monitorTick.slotsOk :=
    slotsOk_of_slotView_eq ((slotView_monitorTick _).trans (slotView_promote s)) hok
  unfold State.openWork
  extract_lets t
  split
  · exact hmonitor
  · exact scans_slotsOk hmonitor

theorem boundary_slotsOk (order : List Worker) (hok : s.slotsOk) : (s.boundary order).slotsOk := by
  unfold State.boundary
  extract_lets a b c
  have ha : a.slotsOk := by
    unfold a State.settleExpiry
    split
    · exact expireAndScan_slotsOk hok
    · exact hok
  have hb : slotView b = slotView a := by simp [b, apply_ite slotView, slotView_frameWork]
  have hc : slotView c = slotView b := slotView_actOnRun b.nextFrame
  have hok' : c.slotsOk := slotsOk_of_slotView_eq (hc.trans hb) ha
  split
  · exact openWork_slotsOk hok'
  · exact hok'

/-! ## Every step -/

theorem reset_slotsOk : State.reset.slotsOk := by
  simp [State.slotsOk, State.reset, Seat.reset, Settings.reset, Routing.reset, Mode.holdsSlot]

theorem softReset_slotsOk (s : State) : s.softReset.slotsOk :=
  slotsOk_of_slotView_eq (s := State.reset) rfl reset_slotsOk

/-- A register write makes a soft reset, or leaves seats and slot map alone. -/
theorem controlWrite_slotsOk {w : Word} {f : Regs → Regs} (hok : s.slotsOk) :
    (if asksReset w then s.softReset else s.modRegs f).slotsOk := by
  split
  · exact softReset_slotsOk s
  · exact hok

/-- Every command keeps the law: a reset sets up the law anew, the two boundary commands keep it by their scans, and no other
command touches a seat's settings or the slot map. -/
theorem exec_slotsOk (i : Instr) (hok : s.slotsOk) (h : exec i s = .next t) : t.slotsOk := by
  cases i with
  | pinReset => cases h; exact slotsOk_of_slotView_eq (s := State.reset) rfl reset_slotsOk
  | softReset => cases h; exact softReset_slotsOk s
  | run w => cases h; exact controlWrite_slotsOk hok
  | enableMask w => cases h; exact controlWrite_slotsOk hok
  | windowFaultClear w => cases h; split <;> exact hok
  | registerWrite r w => cases r <;> cases h <;> exact hok
  | seatHighwayCycle up => cases h; split <;> exact hok
  | debounceComplete slot bit => cases h; exact hok
  | receiveStoreArrival slots => cases h; exact hok
  | transmitStoreRead => cases h; exact hok
  | cycleStart bits => cases h; exact hok
  | syncTest sync => cases h; exact hok
  | frameBoundary turns order =>
    cases h
    split
    · exact boundary_slotsOk (s := s.loadTurns turns) order hok
    · exact hok
  | hostTickExpiry turns =>
    cases h
    split
    · exact expireAndScan_slotsOk (s := s.loadTurns turns) hok
    · exact hok

theorem step_slotsOk (hok : s.slotsOk) (h : step s = .next t) : t.slotsOk := by
  unfold step at h
  split at h
  · cases h
    exact hok
  · next i rest _ => exact exec_slotsOk (s := { s with pending := rest }) i hok h

/-- Settles O28: the step is taken apart into operations on the `SlotView`, and an adopted record is `SlotView.adopt`. -/
theorem slotLawKept : Obligations.SlotLawKept := by
  unfold Obligations.SlotLawKept
  refine ⟨fun s t => step_slotsOk, reset_slotsOk, fun s k edition r hok hcheck => ?_⟩
  intro t g n
  have hview : slotView t = (slotView s).adopt k (routingAfter s k r) := slotView_takeSeat edition hok hcheck
  have hrouting : g = routingAfter s k r :=
    (congrArg (fun v => v.routing k) hview).trans (Function.update_self ..)
  have hslots : t.slotMap[n] = ((slotView s).adopt k (routingAfter s k r)).slots n :=
    congrArg (fun v => v.slots n) hview
  rw [hslots, hrouting]
  simp only [SlotView.adopt, heldSlot_eq_some]
  rfl

end Sys2Proof.SlotLaw
end

section
/-! The Tail Pool (2.8, R36 to R43).  Its laws speak of the free list, and of every seat's block list, waiting condition, call
mode and ECHO settings, so a state is reduced to its `TailView`, and one seat with the free list to an `Account`.  An operation
of the model leaves the view alone or replaces the account of one seat; what an operation does to an account is written out
once, and both laws are proved over accounts. -/

namespace Sys2Proof.TailPool

open Sys2Proof.Machine Sys2Proof.Laws Sys2Proof.SlotLaw

/-! ## The view that the laws speak of -/

/-- What the Tail Pool has to do with of one seat. -/
@[ext] structure SeatTail where
  blocks : List Nat
  waiting : Bool
  /-- The seat is in TALK or HOLD. -/
  calls : Bool
  echo : Echo

/-- One seat's tail, and the free list. -/
@[ext] structure Account extends SeatTail where
  pool : List Nat

/-- The part of a state that the Tail Pool's laws speak of. -/
@[ext] structure TailView where
  pool : List Nat
  seat : SeatNo → SeatTail

/-- What the Tail Pool has to do with of a seat of the model. -/
def seatTail (x : Seat) : SeatTail := ⟨x.blocks, x.waiting, x.adopted.routing.mode.holdsSlot, x.adopted.echo⟩

/-- What a state shows of the free list and of the seats' tails. -/
def tailView (s : State) : TailView := ⟨s.pool, fun k => seatTail s.seats[k]⟩

namespace TailView

/-- One seat's account of a view. -/
def account (v : TailView) (k : SeatNo) : Account := { v.seat k with pool := v.pool }

/-- The account of one seat replaced. -/
def put (v : TailView) (k : SeatNo) (a : Account) : TailView := ⟨a.pool, Function.update v.seat k a.toSeatTail⟩

@[simp] theorem account_put (v : TailView) (k : SeatNo) (a : Account) : (v.put k a).account k = a := by
  simp [put, account]

@[simp] theorem put_put (v : TailView) (k : SeatNo) (a b : Account) : (v.put k a).put k b = v.put k b := by
  simp [put]

@[simp] theorem put_account (v : TailView) (k : SeatNo) : v.put k (v.account k) = v := by
  simp [put, account]

theorem put_ite {p : Prop} [Decidable p] (v : TailView) (k : SeatNo) (a b : Account) :
    v.put k (if p then a else b) = if p then v.put k a else v.put k b := apply_ite ..

end TailView

/-- The account of one seat of a state. -/
def account (s : State) (k : SeatNo) : Account := (tailView s).account k

@[simp] theorem account_pool (s : State) (k : SeatNo) : (account s k).pool = s.pool := rfl
@[simp] theorem account_blocks (s : State) (k : SeatNo) : (account s k).blocks = s.seats[k].blocks := rfl
@[simp] theorem account_waiting (s : State) (k : SeatNo) : (account s k).waiting = s.seats[k].waiting := rfl
@[simp] theorem account_calls (s : State) (k : SeatNo) :
    (account s k).calls = s.seats[k].adopted.routing.mode.holdsSlot := rfl
@[simp] theorem account_echo (s : State) (k : SeatNo) : (account s k).echo = s.seats[k].adopted.echo := rfl

@[simp] theorem put_account (s : State) (k : SeatNo) : (tailView s).put k (account s k) = tailView s :=
  TailView.put_account ..

/-! ## The Tail Pool's operations on an account -/

namespace Account

/-- `State.grantTail` (R36). -/
def grant (a : Account) (n : Nat) : Account := { a with blocks := a.blocks ++ a.pool.take n, pool := a.pool.drop n }

/-- `State.releaseTail` (R36). -/
def release (a : Account) (keep : Nat) : Account :=
  { a with blocks := a.blocks.take keep, pool := (a.blocks.drop keep).foldr insertBlock a.pool }

/-- `State.requestTail` (R38). -/
def request (a : Account) : Account :=
  if a.echo.tailFloor ≤ min a.echo.tailRequest a.pool.length then
    { a.grant (min a.echo.tailRequest a.pool.length) with waiting := false }
  else { a with waiting := true }

/-- `State.retryTail` (R39). -/
def retry (a : Account) : Account := if a.waiting then a.request else a

/-- `State.growTail` (R42). -/
def grow (a : Account) : Account :=
  let n := min a.echo.tailRequest (a.blocks.length + a.pool.length)
  if a.echo.tailFloor ≤ n then a.grant (n - a.blocks.length) else a

/-- `State.dropTail` (R43). -/
def drop (a : Account) : Account := { a.release 0 with waiting := false }

/-- `State.resizeTail` (R41, R42). -/
def resize (a : Account) (old : Nat) : Account :=
  if a.echo.tailRequest < a.blocks.length then a.release a.echo.tailRequest
  else if old < a.echo.tailRequest ∧ a.blocks.length < a.echo.tailRequest then a.grow
  else a

/-- A change of mode, after which the seat is in a call or is not: `State.applyRouting` (R7, R11). -/
def route (a : Account) (now : Bool) : Account :=
  let b := { a with calls := now }
  if now then (if !a.calls && a.echo.enable then b.request else b) else if a.calls then b.drop else b

/-- Whether a change of mode asks the Tail Pool (R7). -/
def routeAsks (a : Account) (now : Bool) : Bool := now && (!a.calls && a.echo.enable)

/-- An ECHO group: `State.applyEcho`; `old` is the tail_request before it, and `asked` says that the record has asked
already (R40 to R43). -/
def resettle (a : Account) (old : Nat) (asked : Bool) : Account :=
  if a.calls && !asked then
    if a.echo.enable then (if a.blocks.isEmpty then a.request else a.resize old) else a.drop
  else a

/-- The ECHO settings of a record that names the group, or those that stand: `storeGroups` (R184). -/
def store (a : Account) (echo : Option Echo) : Account := { a with echo := echo.getD a.echo }

/-- An adopted record (R184): the new mode is a call mode or is not, and the ECHO group is named or is not. -/
def adopt (a : Account) (now : Bool) (echo : Option Echo) : Account :=
  let b := (a.store echo).route now
  if echo.isSome then b.resettle a.echo.tailRequest ((a.store echo).routeAsks now) else b

end Account

/-! ## The law of one seat -/

namespace SeatTail

/-- The seat runs its canceller on tail blocks (R40): `Settings.runsEcho`. -/
def runs (x : SeatTail) : Bool := x.calls && x.echo.enable

/-- Blocks and the waiting condition belong to a seat that runs its canceller (R39, R40), a waiting seat holds none, and no
seat holds more than its request (R38, R41). -/
def lawful (x : SeatTail) : Prop :=
  (x.blocks ≠ [] → x.runs = true) ∧
  (x.waiting = true → x.runs = true ∧ x.blocks = []) ∧
  x.blocks.length ≤ x.echo.tailRequest

variable {x : SeatTail}

/-- A seat that runs no canceller has no tail and does not wait. -/
theorem lawful.no_tail (h : x.lawful) (hruns : x.runs = false) : x.blocks = [] ∧ x.waiting = false := by
  obtain ⟨hblocks, hwaiting, -⟩ := h
  simp only [hruns, Bool.false_eq_true, imp_false, false_and, ne_eq, Decidable.not_not] at hblocks hwaiting
  exact ⟨hblocks, by simpa using hwaiting⟩

theorem lawful.of_waiting (h : x.lawful) (hwaits : x.waiting = true) : x.runs = true ∧ x.blocks = [] := h.2.1 hwaits

theorem lawful.not_waiting (h : x.lawful) (hblocks : x.blocks ≠ []) : x.waiting = false :=
  Bool.eq_false_of_not_eq_true fun hwaits => hblocks (h.of_waiting hwaits).2

theorem lawful_of_no_tail (hblocks : x.blocks = []) (hwaiting : x.waiting = false) : x.lawful := by
  simp [lawful, hblocks, hwaiting]

/-- A seat that runs its canceller and does not wait may hold blocks up to its request. -/
theorem lawful_of_runs (hruns : x.runs = true) (hwaiting : x.waiting = false)
    (hlength : x.blocks.length ≤ x.echo.tailRequest) : x.lawful := by
  simp [lawful, hruns, hwaiting, hlength]

end SeatTail

/-! ## What the operations on an account keep -/

/-- Blocks put back keep the free list in block order. -/
theorem insertBlocks_sorted {bs l : List Nat} (hl : l.Pairwise (· < ·)) (hnodup : (bs ++ l).Nodup) :
    (bs.foldr insertBlock l).Pairwise (· < ·) := by
  induction bs with
  | nil => exact hl
  | cons b bs ih =>
    obtain ⟨hb, hrest⟩ := List.nodup_cons.1 hnodup
    exact insertBlock_sorted (ih hrest) (mt (insertBlocks_perm bs l).mem_iff.1 hb)

namespace Account

open SeatTail

/-- `a.Balances b`: `b` has the blocks of `a`, free or held, and the free list stays in block order. -/
structure Balances (a b : Account) : Prop where
  perm : (b.pool ++ b.blocks).Perm (a.pool ++ a.blocks)
  sorted : a.pool.Pairwise (· < ·) → (a.pool ++ a.blocks).Nodup → b.pool.Pairwise (· < ·)

variable {a b c : Account}

theorem Balances.of_eq (hpool : b.pool = a.pool) (hblocks : b.blocks = a.blocks) : a.Balances b :=
  ⟨by rw [hpool, hblocks], fun h _ => hpool ▸ h⟩

theorem Balances.refl (a : Account) : a.Balances a := .of_eq rfl rfl

theorem Balances.trans (h : a.Balances b) (g : b.Balances c) : a.Balances c :=
  ⟨g.perm.trans h.perm, fun hsorted hnodup => g.sorted (h.sorted hsorted hnodup) (h.perm.nodup_iff.2 hnodup)⟩

theorem Balances.ite {p : Prop} [Decidable p] (hb : a.Balances b) (hc : a.Balances c) :
    a.Balances (if p then b else c) := by
  split
  · exact hb
  · exact hc

theorem grant_balances (a : Account) (n : Nat) : a.Balances (a.grant n) where
  perm :=
    calc (a.pool.drop n ++ (a.blocks ++ a.pool.take n)).Perm ((a.blocks ++ a.pool.take n) ++ a.pool.drop n) :=
          List.perm_append_comm
      _ = a.blocks ++ a.pool := by rw [List.append_assoc, List.take_append_drop]
      List.Perm _ (a.pool ++ a.blocks) := List.perm_append_comm
  sorted hsorted _ := hsorted.sublist (List.drop_sublist n _)

theorem release_pool_perm (a : Account) (keep : Nat) : (a.release keep).pool.Perm (a.pool ++ a.blocks.drop keep) :=
  (insertBlocks_perm ..).trans List.perm_append_comm

theorem release_balances (a : Account) (keep : Nat) : a.Balances (a.release keep) where
  perm :=
    calc ((a.release keep).pool ++ a.blocks.take keep).Perm ((a.pool ++ a.blocks.drop keep) ++ a.blocks.take keep) :=
          (release_pool_perm a keep).append_right _
      _ = a.pool ++ (a.blocks.drop keep ++ a.blocks.take keep) := List.append_assoc ..
      List.Perm _ (a.pool ++ (a.blocks.take keep ++ a.blocks.drop keep)) := List.perm_append_comm.append_left _
      _ = a.pool ++ a.blocks := by rw [List.take_append_drop]
  sorted hsorted hnodup := by
    refine insertBlocks_sorted hsorted (List.perm_append_comm.nodup_iff.1 (hnodup.sublist ?_))
    exact (List.drop_sublist keep _).append_left _

theorem request_balances (a : Account) : a.Balances a.request :=
  .ite ((grant_balances a _).trans (.of_eq rfl rfl)) (.of_eq rfl rfl)

theorem retry_balances (a : Account) : a.Balances a.retry := .ite (request_balances a) (.refl a)

theorem grow_balances (a : Account) : a.Balances a.grow := .ite (grant_balances a _) (.refl a)

theorem drop_balances (a : Account) : a.Balances a.drop := (release_balances a 0).trans (.of_eq rfl rfl)

theorem resize_balances (a : Account) (old : Nat) : a.Balances (a.resize old) :=
  .ite (release_balances a _) (.ite (grow_balances a) (.refl a))

theorem route_balances (a : Account) (now : Bool) : a.Balances (a.route now) := by
  have h : a.Balances { a with calls := now } := .of_eq rfl rfl
  exact .ite (.ite (h.trans (request_balances _)) h) (.ite (h.trans (drop_balances _)) h)

theorem resettle_balances (a : Account) (old : Nat) (asked : Bool) : a.Balances (a.resettle old asked) :=
  .ite (.ite (.ite (request_balances a) (resize_balances a old)) (drop_balances a)) (.refl a)

theorem adopt_balances (a : Account) (now : Bool) (echo : Option Echo) : a.Balances (a.adopt now echo) := by
  have hstore : a.Balances (a.store echo) := .of_eq rfl rfl
  have hroute := hstore.trans (route_balances _ now)
  exact .ite (hroute.trans (resettle_balances ..)) hroute

theorem drop_lawful (a : Account) : a.drop.lawful := lawful_of_no_tail (List.take_zero (l := a.blocks)) rfl

theorem request_lawful (hruns : a.runs = true) (hblocks : a.blocks = []) : a.request.lawful := by
  unfold request
  split
  · refine lawful_of_runs hruns rfl ?_
    simp [grant, hblocks]
  · exact ⟨fun _ => hruns, fun _ => ⟨hruns, hblocks⟩, by simp [hblocks]⟩

theorem retry_lawful (h : a.lawful) : a.retry.lawful := by
  unfold retry
  split
  · next hwaits =>
    obtain ⟨hruns, hblocks⟩ := h.of_waiting hwaits
    exact request_lawful hruns hblocks
  · exact h

theorem grow_lawful (hruns : a.runs = true) (hwaiting : a.waiting = false)
    (hlength : a.blocks.length ≤ a.echo.tailRequest) : a.grow.lawful := by
  unfold grow
  extract_lets n
  split
  · refine lawful_of_runs hruns hwaiting ?_
    simp only [grant, List.length_append, List.length_take]
    omega
  · exact lawful_of_runs hruns hwaiting hlength

theorem resize_lawful (old : Nat) (hruns : a.runs = true) (hwaiting : a.waiting = false) :
    (a.resize old).lawful := by
  unfold resize
  split
  · exact lawful_of_runs hruns hwaiting (List.length_take_le ..)
  · next hle =>
    have hlength : a.blocks.length ≤ a.echo.tailRequest := Nat.not_lt.1 hle
    split
    · exact grow_lawful hruns hwaiting hlength
    · exact lawful_of_runs hruns hwaiting hlength

/-- A mode that is no change of call mode leaves the account as it is. -/
theorem route_self (a : Account) : a.route a.calls = a := by
  unfold route
  extract_lets b
  have hb : b = a := rfl
  cases hcalls : a.calls <;> simp [hb]

/-- A change of mode gives a lawful account, but for a seat that stays in a call, whose account stands. -/
theorem route_lawful {now : Bool} (idle : a.calls = false → a.blocks = [] ∧ a.waiting = false)
    (stay : now = true → a.calls = true → a.lawful) : (a.route now).lawful := by
  cases now <;> cases hcalls : a.calls
  case false.false =>
    obtain ⟨hblocks, hwaiting⟩ := idle hcalls
    simp [route, hcalls, lawful, hblocks, hwaiting]
  case false.true =>
    simpa [route, hcalls] using drop_lawful { a with calls := false }
  case true.false =>
    obtain ⟨hblocks, hwaiting⟩ := idle hcalls
    cases henable : a.echo.enable
    · simp [route, hcalls, henable, lawful, hblocks, hwaiting]
    · simpa [route, hcalls, henable] using request_lawful (a := { a with calls := true }) henable hblocks
  case true.true =>
    have hsame : a.route true = a := hcalls ▸ route_self a
    exact hsame.symm ▸ stay rfl hcalls

/-- The ECHO group of a seat in a call decides its tail anew, whatever its ECHO settings were. -/
theorem resettle_lawful (old : Nat) (hcalls : a.calls = true) (hwaiting : a.blocks ≠ [] → a.waiting = false) :
    (a.resettle old false).lawful := by
  cases henable : a.echo.enable
  · simpa [resettle, hcalls, henable] using drop_lawful a
  · have hruns : a.runs = true := by simp [runs, hcalls, henable]
    by_cases hblocks : a.blocks = []
    · simpa [resettle, hcalls, henable, hblocks] using request_lawful hruns hblocks
    · simpa [resettle, hcalls, henable, hblocks] using resize_lawful old hruns (hwaiting hblocks)

theorem resettle_of_not_calls {old : Nat} {asked : Bool} (hcalls : a.calls = false) : a.resettle old asked = a := by
  simp [resettle, hcalls]

theorem resettle_of_asked (a : Account) (old : Nat) : a.resettle old true = a := by
  simp [resettle]

theorem route_calls (a : Account) (now : Bool) : (a.route now).calls = now := by
  simp [route, request, grant, drop, release, apply_ite Account.toSeatTail, apply_ite SeatTail.calls]

theorem route_echo (a : Account) (now : Bool) : (a.route now).echo = a.echo := by
  simp [route, request, grant, drop, release, apply_ite Account.toSeatTail, apply_ite SeatTail.echo]

/-- A mode that is no change of call mode asks nothing of the Tail Pool. -/
theorem routeAsks_self (a : Account) : a.routeAsks a.calls = false := by
  cases hcalls : a.calls <;> simp [routeAsks, hcalls]

/-- An adopted record keeps the seat's law: a change of mode alone by `route_lawful`; an ECHO group that the change of mode
has not asked for decides the tail of a call anew. -/
theorem adopt_lawful (now : Bool) (echo : Option Echo) (h : a.lawful) : (a.adopt now echo).lawful := by
  have idle (hcalls : a.calls = false) : a.blocks = [] ∧ a.waiting = false := h.no_tail (by simp [runs, hcalls])
  unfold adopt
  extract_lets b
  cases echo with
  | none => exact route_lawful idle fun _ _ => h
  | some e =>
    cases hasks : (a.store (some e)).routeAsks now
    · cases now
      · have hleft : b.calls = false := route_calls _ false
        simp only [Option.isSome_some, if_true, resettle_of_not_calls hleft]
        exact route_lawful (a := a.store (some e)) idle fun hnow => nomatch hnow
      · have hroute : b = { a.store (some e) with calls := true } := by simp_all [b, route, routeAsks]
        rw [hroute]
        exact resettle_lawful (a := { a.store (some e) with calls := true }) _ rfl h.not_waiting
    · simp only [Option.isSome_some, if_true, resettle_of_asked]
      refine route_lawful idle fun _ hcalls => ?_
      simp [routeAsks, hcalls] at hasks

end Account

/-! ## The laws of a view -/

namespace TailView

/-- The blocks of all seats' lists, in seat-number order. -/
def held (v : TailView) : List Nat := (List.finRange 32).flatMap fun k => (v.seat k).blocks

/-- The blocks of all lists but one seat's. -/
def others (v : TailView) (k : SeatNo) : List Nat := ((List.finRange 32).erase k).flatMap fun j => (v.seat j).blocks

/-- The law of the free list and the blocks (R36). -/
def balanced (v : TailView) : Prop :=
  v.pool.Pairwise (· < ·) ∧ (v.pool ++ v.held).Perm (List.range Config.tailBlocks)

/-- The law of every seat's tail. -/
def lawful (v : TailView) : Prop := ∀ k, (v.seat k).lawful

variable {v : TailView} {k : SeatNo} {a : Account}

theorem others_put (v : TailView) (k : SeatNo) (a : Account) : (v.put k a).others k = v.others k := by
  refine List.flatMap_congr fun j hj => ?_
  have hne : j ≠ k := ((List.nodup_finRange 32).mem_erase_iff.1 hj).1
  simp [put, hne]

/-- The free list and one seat's list, and the blocks of the other seats. -/
theorem blocks_perm (v : TailView) (k : SeatNo) :
    (v.pool ++ v.held).Perm (((v.account k).pool ++ (v.account k).blocks) ++ v.others k) := by
  have hheld : v.held.Perm ((v.seat k).blocks ++ v.others k) :=
    (List.perm_cons_erase (List.mem_finRange k)).flatMap_right _
  rw [List.append_assoc]
  exact hheld.append_left _

theorem balanced.account_nodup (h : v.balanced) (k : SeatNo) :
    ((v.account k).pool ++ (v.account k).blocks).Nodup := by
  have hall : (v.pool ++ v.held).Nodup := h.2.nodup_iff.2 List.nodup_range
  exact (List.nodup_append.1 ((blocks_perm v k).nodup_iff.1 hall)).1

theorem balanced.put (h : v.balanced) (hmove : (v.account k).Balances a) : (v.put k a).balanced := by
  refine ⟨hmove.sorted h.1 (h.account_nodup k), ?_⟩
  refine .trans (blocks_perm _ k) (.trans ?_ ((blocks_perm v k).symm.trans h.2))
  rw [others_put, account_put]
  exact hmove.perm.append_right _

theorem lawful.put (h : v.lawful) (hseat : a.lawful) : (v.put k a).lawful := fun j => by
  by_cases hj : j = k
  · subst hj
    simpa [TailView.put] using hseat
  · simpa [TailView.put, hj] using h j

end TailView

theorem heldBlocks_eq (s : State) : s.heldBlocks = (tailView s).held := by
  have hlist : s.seats.toList = (List.finRange 32).map fun k => s.seats[k] :=
    List.ext_getElem (by simp) fun i _ _ => by simp
  rw [State.heldBlocks, hlist, List.flatMap_map]
  rfl

theorem poolOk_iff (s : State) : s.poolOk ↔ (tailView s).balanced := by
  rw [State.poolOk, heldBlocks_eq]
  rfl

theorem tailOk_iff (s : State) : s.tailOk ↔ (tailView s).lawful := .rfl

/-- `t` keeps what `s` keeps of the two laws. -/
structure Upholds (s t : State) : Prop where
  pool : s.poolOk → t.poolOk
  tail : s.tailOk → t.tailOk

section

variable {s t u : State}

theorem Upholds.of_eq (h : tailView t = tailView s) : Upholds s t where
  pool hs := by rwa [poolOk_iff, h, ← poolOk_iff]
  tail hs := by rwa [tailOk_iff, h, ← tailOk_iff]

theorem Upholds.refl (s : State) : Upholds s s := .of_eq rfl

theorem Upholds.trans (h : Upholds s t) (g : Upholds t u) : Upholds s u := ⟨g.pool ∘ h.pool, g.tail ∘ h.tail⟩

/-- A step from a state that has the tails of an earlier one. -/
theorem Upholds.from_eq (g : Upholds t u) (h : tailView t = tailView s) : Upholds s u := (Upholds.of_eq h).trans g

theorem Upholds.ite {p : Prop} [Decidable p] (ht : Upholds s t) (hu : Upholds s u) :
    Upholds s (if p then t else u) := by
  split
  · exact ht
  · exact hu

/-- One seat's account replaced by one that has the same blocks and keeps the seat's law. -/
theorem Upholds.of_put {k : SeatNo} {a : Account} (h : tailView t = (tailView s).put k a)
    (hbalances : (account s k).Balances a) (hlawful : (account s k).lawful → a.lawful) : Upholds s t where
  pool hs := by
    rw [poolOk_iff] at hs ⊢
    exact h ▸ hs.put hbalances
  tail hs := by
    rw [tailOk_iff] at hs ⊢
    exact h ▸ hs.put (hlawful (hs k))

theorem Upholds.foldl {α : Type} {f : State → α → State} (h : ∀ s a, Upholds s (f s a)) (l : List α) (s : State) :
    Upholds s (l.foldl f s) := by
  induction l generalizing s with
  | nil => exact .refl s
  | cons a l ih => exact (h s a).trans (ih _)

end

/-! ## The named updates -/

section

variable {s t : State}

theorem tailView_congr_seats (hpool : t.pool = s.pool) (hseats : ∀ k : SeatNo, seatTail t.seats[k] = seatTail s.seats[k]) :
    tailView t = tailView s :=
  TailView.ext hpool (funext hseats)

theorem tailView_congr (hpool : t.pool = s.pool) (hseats : t.seats = s.seats) : tailView t = tailView s :=
  tailView_congr_seats hpool fun _ => by rw [hseats]

/-- The free list and one seat replaced. -/
theorem tailView_eq_put {k : SeatNo} {a : Account} {x : Seat} (hseats : t.seats = s.seats.set k x)
    (hpool : t.pool = a.pool) (hseat : seatTail x = a.toSeatTail) : tailView t = (tailView s).put k a := by
  refine TailView.ext hpool (funext fun j => ?_)
  simp only [tailView, TailView.put, hseats, Function.update_apply, Fin.getElem_fin, Vector.getElem_set, Fin.val_inj,
    eq_comm (a := j)]
  split
  · exact hseat
  · rfl

@[simp] theorem tailView_setIo (s : State) (io : Io) : tailView (s.setIo io) = tailView s := rfl

@[simp] theorem tailView_hand (s : State) (c : Code) (src : Source) (d0 d1 d2 : Word) :
    tailView (s.hand c src d0 d1 d2) = tailView s := rfl

@[simp] theorem tailView_modStream (s : State) (j : StreamNo) (f : Stream → Stream) :
    tailView (s.modStream j f) = tailView s := rfl

theorem tailView_modSeat {k : SeatNo} {f : Seat → Seat} (h : ∀ x, seatTail (f x) = seatTail x) :
    tailView (s.modSeat k f) = tailView s :=
  tailView_congr_seats rfl fun j => by
    rw [modSeat_get]
    split
    · next hkj => rw [h, hkj]
    · rfl

theorem tailView_mapSeats {f : Seat → Seat} (h : ∀ x, seatTail (f x) = seatTail x) :
    tailView (s.mapSeats f) = tailView s :=
  tailView_congr_seats rfl fun k => by rw [mapSeats_seats, tabulate_get, h]

/-- A change of adopted settings that leaves mode and ECHO alone. -/
@[simp] theorem tailView_modAdopted {k : SeatNo} {f : Settings → Settings}
    (h : ∀ g, (f g).routing.mode = g.routing.mode ∧ (f g).echo = g.echo) :
    tailView (s.modAdopted k f) = tailView s :=
  tailView_modSeat fun x => by
    obtain ⟨hmode, hecho⟩ := h x.adopted
    simp only [seatTail, hmode, hecho]

/-- A change of mode or ECHO settings. -/
theorem tailView_modAdopted_put {k : SeatNo} (f : Settings → Settings) :
    tailView (s.modAdopted k f) = (tailView s).put k { account s k with
      calls := (f s.seats[k].adopted).routing.mode.holdsSlot, echo := (f s.seats[k].adopted).echo } :=
  tailView_eq_put rfl rfl rfl

@[simp] theorem tailView_modDue (s : State) (k : SeatNo) (f : Due → Due) : tailView (s.modDue k f) = tailView s :=
  tailView_modSeat fun _ => rfl

/-! ## The Tail Pool -/

theorem account_of_put {v : TailView} {k : SeatNo} {a : Account} (h : tailView t = v.put k a) : account t k = a := by
  rw [account, h, TailView.account_put]

@[simp] theorem tailView_grantTail (s : State) (k : SeatNo) (n : Nat) :
    tailView (s.grantTail k n) = (tailView s).put k ((account s k).grant n) := tailView_eq_put rfl rfl rfl

@[simp] theorem tailView_releaseTail (s : State) (k : SeatNo) (keep : Nat) :
    tailView (s.releaseTail k keep) = (tailView s).put k ((account s k).release keep) := tailView_eq_put rfl rfl rfl

@[simp] theorem tailView_setWaiting (s : State) (k : SeatNo) (w : Bool) :
    tailView (s.setWaiting k w) = (tailView s).put k { account s k with waiting := w } := tailView_eq_put rfl rfl rfl

@[simp] theorem tailView_poolShort (s : State) (k : SeatNo) (e : Echo) : tailView (s.poolShort k e) = tailView s := rfl

@[simp] theorem tailView_requestTail (s : State) (k : SeatNo) (loud : Bool) :
    tailView (s.requestTail k loud) = (tailView s).put k (account s k).request := by
  simp [State.requestTail, Account.request, apply_ite tailView, TailView.put_ite,
    account_of_put (tailView_grantTail s k _)]

@[simp] theorem tailView_retryTail (s : State) (k : SeatNo) :
    tailView (s.retryTail k) = (tailView s).put k (account s k).retry := by
  unfold State.retryTail Account.retry
  rw [TailView.put_ite]
  simp [apply_ite tailView]

@[simp] theorem tailView_growTail (s : State) (k : SeatNo) :
    tailView (s.growTail k) = (tailView s).put k (account s k).grow := by
  simp [State.growTail, Account.grow, apply_ite tailView, TailView.put_ite]

@[simp] theorem tailView_dropTail (s : State) (k : SeatNo) :
    tailView (s.dropTail k) = (tailView s).put k (account s k).drop := by
  simp [State.dropTail, Account.drop, account_of_put (tailView_releaseTail s k 0)]

@[simp] theorem tailView_resizeTail (s : State) (k : SeatNo) (old : Nat) :
    tailView (s.resizeTail k old) = (tailView s).put k ((account s k).resize old) := by
  unfold State.resizeTail Account.resize
  rw [TailView.put_ite, TailView.put_ite]
  simp [apply_ite tailView]

theorem retryTail_upholds (s : State) (k : SeatNo) : Upholds s (s.retryTail k) :=
  .of_put (tailView_retryTail s k) (Account.retry_balances _) Account.retry_lawful

/-! ## Attachment lists, streams and slots -/

@[simp] theorem tailView_leaveTarget (s : State) (k : SeatNo) : tailView (s.leaveTarget k) = tailView s := by
  unfold State.leaveTarget
  split
  · rfl
  · simp

@[simp] theorem tailView_attach (s : State) (k t : SeatNo) (kind : Kind) (ptt : Bool) :
    tailView (s.attach k t kind ptt) = tailView s := by
  simp [State.attach]

@[simp] theorem tailView_reattach (s : State) (k t : SeatNo) (kind : Kind) (ptt : Bool) :
    tailView (s.reattach k t kind ptt) = tailView s := tailView_modAdopted fun _ => ⟨rfl, rfl⟩

/-- A fold of operations that leave the view alone. -/
theorem foldl_tailView {α : Type} {f : State → α → State} (h : ∀ s a, tailView (f s a) = tailView s) (l : List α)
    (s : State) : tailView (l.foldl f s) = tailView s :=
  List.foldlRecOn l f (motive := fun t => tailView t = tailView s) rfl fun t ht a _ => (h t a).trans ht

@[simp] theorem tailView_detachOne (t : SeatNo) (cause : Word) (s : State) (a : Attachment) :
    tailView (detachOne t cause s a) = tailView s := by
  simp [detachOne]

@[simp] theorem tailView_detachAll (s : State) (t : SeatNo) (cause : Word) :
    tailView (s.detachAll t cause) = tailView s := by
  simp [State.detachAll, foldl_tailView (tailView_detachOne t cause)]

@[simp] theorem tailView_joinHold (s : State) (n : Nat) : tailView (s.joinHold n) = tailView s := by
  unfold State.joinHold
  split <;> rfl

@[simp] theorem tailView_leaveHold (s : State) (n : Nat) : tailView (s.leaveHold n) = tailView s := by
  unfold State.leaveHold
  split <;> rfl

@[simp] theorem tailView_freeSlots (s : State) (k : SeatNo) (keep : Option Nat) :
    tailView (s.freeSlots k keep) = tailView s := rfl

@[simp] theorem tailView_claimSlot (s : State) (k : SeatNo) (n : Nat) : tailView (s.claimSlot k n) = tailView s := by
  unfold State.claimSlot
  split <;> rfl

@[simp] theorem tailView_enterHold (s : State) (k : SeatNo) : tailView (s.enterHold k) = tailView s := by
  simp [State.enterHold, apply_ite tailView]

@[simp] theorem tailView_exitHold (s : State) (k : SeatNo) (old : Settings) :
    tailView (s.exitHold k old) = tailView s := by
  simp [State.exitHold, apply_ite tailView]

@[simp] theorem tailView_exitIdle (s : State) (k : SeatNo) (old : Settings) :
    tailView (s.exitIdle k old) = tailView s := by
  simp [State.exitIdle, apply_ite tailView]

@[simp] theorem tailView_stayInCall (s : State) (k : SeatNo) (old : Settings) (r : Routing) :
    tailView (s.stayInCall k old r) = tailView s := by
  have hchange : tailView (s.changeHold k old r) = tailView s := by
    unfold State.changeHold
    split <;> simp [apply_ite tailView]
  simp [State.stayInCall, State.moveSlot, apply_ite tailView, hchange]

/-! ## Changes of mode -/

/-- The account of a seat after its call has ended, if it was in one (R11). -/
@[simp] theorem tailView_leaveCall (s : State) (k : SeatNo) (old : Settings) :
    tailView (s.leaveCall k old) =
      if old.routing.mode.holdsSlot = true then (tailView s).put k (account s k).drop else tailView s := by
  have hview : tailView ((s.exitHold k old).freeSlots k none) = tailView s := by simp
  simp [State.leaveCall, apply_ite tailView, account, hview]

@[simp] theorem tailView_enterIdle (s : State) (k : SeatNo) (old : Settings) :
    tailView (s.enterIdle k old) =
      if old.routing.mode.holdsSlot = true then (tailView s).put k (account s k).drop else tailView s := by
  simp [State.enterIdle, apply_ite tailView]

theorem tailView_supervise (k : SeatNo) (old : Settings) {r : Routing} {kind : Kind} {t : SeatNo}
    (hkind : decodeKind r.kind = some kind) (ht : r.target = some t.val) :
    tailView (s.supervise k old r) =
      if old.routing.mode.holdsSlot = true then (tailView s).put k (account s k).drop else tailView s := by
  by_cases hold : old.routing.mode = .supervise
  · simp [State.supervise, hkind, ht, hold, apply_ite tailView, Mode.holdsSlot]
  · simp [State.supervise, hkind, ht, hold]

/-- The view of a state, with whether the Tail Pool was asked. -/
def askedView (x : State × Bool) : TailView × Bool := (tailView x.1, x.2)

/-- Entering a call: the Tail Pool is asked if the seat is to run its canceller (R7). -/
theorem askedView_enterCall (s : State) (k : SeatNo) (old : Settings) (r : Routing) :
    askedView (s.enterCall k old r) =
      (if (account s k).echo.enable = true then (tailView s).put k (account s k).request else tailView s,
        (account s k).echo.enable) := by
  unfold State.enterCall
  extract_lets a b asks c d
  have hb : tailView b = tailView s := by simp [b, a, apply_ite tailView]
  have hacc : account b k = account s k := congrArg (fun v => v.account k) hb
  have hasks : asks = (account s k).echo.enable := congrArg (fun x => x.echo.enable) hacc
  refine Prod.ext ?_ hasks
  simp only [askedView, apply_ite tailView, d, c, tailView_enterHold, tailView_exitIdle, tailView_requestTail, hb, hacc,
    hasks, ite_self]

/-! ## Adopted records -/

section

variable {v : TailView} {a : Account} {k : SeatNo} {old : Settings} {r : Routing}

/-- A seat whose mode is no call mode any more gives up the call it was in. -/
theorem put_route_false (hs : tailView s = v.put k { a with calls := false }) :
    (if a.calls = true then (tailView s).put k (account s k).drop else tailView s) = v.put k (a.route false) := by
  rw [account_of_put hs, hs]
  simp [Account.route, TailView.put_ite]

/-- A seat whose mode is a call mode now goes on with its call or enters one. -/
theorem askedView_call (hs : tailView s = v.put k { a with calls := true }) (hold : old.routing.mode.holdsSlot = a.calls) :
    askedView (if old.routing.mode.holdsSlot = true then (s.stayInCall k old r, false) else s.enterCall k old r) =
      (v.put k (a.route true), a.routeAsks true) := by
  rw [hold]
  cases hcalls : a.calls
  · simp only [Bool.false_eq_true, if_false, askedView_enterCall, account_of_put hs, hs]
    simp [Account.route, Account.routeAsks, hcalls, TailView.put_ite]
  · simp [askedView, Account.route, Account.routeAsks, hcalls, hs]

/-- Step 2 of an adoption (R184): the change of mode. -/
theorem askedView_applyRouting (hold : old.routing.mode.holdsSlot = (account s k).calls) (hsup : supervisesSeat r) :
    askedView (s.applyRouting k old r) =
      ((tailView s).put k ((account s k).route r.mode.holdsSlot), (account s k).routeAsks r.mode.holdsSlot) := by
  unfold State.applyRouting
  extract_lets u w
  have hw : tailView w = (tailView s).put k { account s k with calls := r.mode.holdsSlot } := by
    have hu : tailView u = (tailView s).put k { account s k with calls := r.mode.holdsSlot } :=
      tailView_modAdopted_put _
    simp [w, hu, apply_ite tailView]
  cases hmode : r.mode with
  | idle =>
    rw [hmode] at hw
    refine Prod.ext ?_ rfl
    refine .trans ?_ (put_route_false hw)
    rw [← hold]
    by_cases hidle : old.routing.mode = .idle
    · simp [askedView, hidle, Mode.holdsSlot]
    · simp [askedView, hidle]
  | supervise =>
    rw [hmode] at hw
    obtain ⟨kind, t, hkind, ht⟩ := hsup hmode
    refine Prod.ext ((tailView_supervise k old hkind ht).trans ?_) rfl
    rw [hold]
    exact put_route_false hw
  | talk =>
    rw [hmode] at hw
    exact askedView_call hw hold
  | hold =>
    rw [hmode] at hw
    exact askedView_call hw hold

end

/-- Step 3 of an adoption (R184): the ECHO group, whose settings the seat has by then. -/
theorem tailView_applyEcho {k : SeatNo} {new : Echo} (old : Echo) (clear asked : Bool) (hnew : (account s k).echo = new) :
    tailView (s.applyEcho k old new clear asked).1 =
      (tailView s).put k ((account s k).resettle old.tailRequest asked) := by
  subst hnew
  unfold State.applyEcho Account.resettle
  simp only [TailView.put_ite]
  simp [apply_ite Prod.fst, apply_ite tailView]

@[simp] theorem tailView_applyCadence (s : State) (k : SeatNo) (old new : Cadence) (restart : Bool) :
    tailView (s.applyCadence k old new restart) = tailView s := tailView_modDue ..

@[simp] theorem tailView_applyCancel (s : State) (k : SeatNo) (all : Bool) (cell : Nat) :
    tailView (s.applyCancel k all cell) = tailView s := tailView_modSeat fun _ => rfl

@[simp] theorem tailView_takeEdition (s : State) (k : SeatNo) (edition : Word) :
    tailView (s.takeEdition k edition) = tailView s := tailView_modSeat fun _ => rfl

/-- The ECHO settings that a record gives, if it names the group. -/
def echoOf (r : SeatRecord) : Option Echo := if r.namesEcho then some r.echo else none

@[simp] theorem isSome_echoOf (r : SeatRecord) : (echoOf r).isSome = r.namesEcho := by
  unfold echoOf
  split <;> simp_all

/-- Step 1 of an adoption (R184). -/
theorem tailView_storeGroups (s : State) (k : SeatNo) (r : SeatRecord) :
    tailView (s.modAdopted k (storeGroups r)) = (tailView s).put k ((account s k).store (echoOf r)) := by
  refine (tailView_modAdopted_put _).trans (congrArg _ (Account.ext rfl rfl rfl ?_ rfl))
  simp only [Account.store, echoOf, storeGroups]
  split <;> rfl

/-- Step 2 of an adoption (R184), on a state that has taken step 1. -/
theorem askedView_routing {u : State} {k : SeatNo} {r : SeatRecord} {a : Account} (hu : tailView u = (tailView s).put k a)
    (hcalls : s.seats[k].adopted.routing.mode.holdsSlot = a.calls)
    (hcheck : r.namesRouting = true → checkRouting s k r.routing = none) :
    askedView (if r.namesRouting = true then u.applyRouting k s.seats[k].adopted r.routing.adopt else (u, false)) =
      ((tailView s).put k (a.route (routingAfter s k r).mode.holdsSlot),
        a.routeAsks (routingAfter s k r).mode.holdsSlot) := by
  have hacc := account_of_put hu
  cases hnames : r.namesRouting
  · simp only [routingAfter, hnames, Bool.false_eq_true, if_false, askedView, hu, hcalls, Account.route_self,
      Account.routeAsks_self]
  · simp only [routingAfter, hnames, if_true]
    rw [askedView_applyRouting (by rw [hacc, hcalls]) (supervisesSeat_of_checkRouting (hcheck hnames)), hacc, hu,
      TailView.put_put]

/-- The five steps of an adoption (R184) are one operation on the seat's account. -/
theorem tailView_adoptSeat {k : SeatNo} {r : SeatRecord} (edition : Word)
    (hcheck : r.namesRouting = true → checkRouting s k r.routing = none) :
    tailView (s.adoptSeat k edition r).1 =
      (tailView s).put k ((account s k).adopt (routingAfter s k r).mode.holdsSlot (echoOf r)) := by
  unfold State.adoptSeat
  extract_lets old u x y z w
  have hrouting : askedView x = _ := askedView_routing (tailView_storeGroups s k r) rfl hcheck
  obtain ⟨hx, hasked⟩ := Prod.ext_iff.1 hrouting
  dsimp only [askedView] at hx hasked
  have hacc := account_of_put hx
  have hy : tailView y.1 =
      (tailView s).put k ((account s k).adopt (routingAfter s k r).mode.holdsSlot (echoOf r)) := by
    unfold y Account.adopt
    rw [isSome_echoOf]
    split
    · next hnames =>
      have hecho : (account x.1 k).echo = r.echo := by
        rw [hacc, Account.route_echo]
        simp [Account.store, echoOf, hnames]
      rw [tailView_applyEcho _ _ _ hecho, hacc, hx, hasked, TailView.put_put]
      rfl
    · exact hx
  have hz : tailView z = tailView y.1 := by simp [z, apply_ite tailView]
  have hw : tailView w = tailView z := by simp [w, apply_ite tailView]
  rw [tailView_takeEdition, hw, hz, hy]

theorem adoptSeat_upholds {k : SeatNo} {r : SeatRecord} (edition : Word) (hcheck : checkRecord s k r = none) :
    Upholds s (s.adoptSeat k edition r).1 :=
  .of_put (tailView_adoptSeat edition (checkRouting_of_checkRecord hcheck)) (Account.adopt_balances ..)
    (Account.adopt_lawful _ _)

theorem takeSeat_upholds (s : State) (k : SeatNo) (edition : Word) (r : SeatRecord) :
    Upholds s (s.takeSeat k edition r) := by
  unfold State.takeSeat
  split
  · exact (retryTail_upholds ..).from_eq (by simp [State.refuseSeat])
  · next hcheck =>
    have hadopt := adoptSeat_upholds edition hcheck
    exact .ite hadopt (hadopt.trans (retryTail_upholds ..))

/-! ## The scans -/

/-- A seat that leaves service is taken to IDLE and gives up its tail (R1, R11). -/
theorem leaveService_upholds (s : State) (k : SeatNo) : Upholds s (s.leaveService k) := by
  have hview : tailView (s.leaveService k) = (tailView s).put k ((account s k).route false) := by
    unfold State.leaveService
    extract_lets old u w
    have hu : tailView u = (tailView s).put k { account s k with calls := false } := tailView_modAdopted_put _
    have hw : tailView w = _ := (tailView_enterIdle u k old).trans (put_route_false hu)
    refine (tailView_modSeat ?_).trans hw
    exact fun _ => rfl
  refine .of_put hview (Account.route_balances ..) fun h => Account.route_lawful ?_ nofun
  exact fun hcalls => h.no_tail (by simp only [SeatTail.runs, hcalls, Bool.false_and])

theorem adoptHeader_upholds (s : State) (edition : Word) (h : HeaderRecord) : Upholds s (s.adoptHeader edition h) := by
  have hleft := Upholds.foldl leaveService_upholds (leavers s.header.seats h.seats) s
  exact hleft.trans (.of_eq (tailView_congr rfl rfl))

theorem takeHeader_upholds (s : State) (edition : Word) (h : HeaderRecord) : Upholds s (s.takeHeader edition h) :=
  .ite (adoptHeader_upholds ..) (.of_eq (tailView_congr rfl rfl))

theorem scanHeader_upholds (s : State) : Upholds s s.scanHeader := by
  unfold State.scanHeader State.readHeader
  extract_lets r
  split
  · exact .of_eq rfl
  · extract_lets words
    cases words.1 with
    | none => exact .of_eq rfl
    | some ws => exact (takeHeader_upholds ..).from_eq rfl

theorem retries_upholds (s : State) : Upholds s s.retries := .foldl retryTail_upholds _ s

theorem placeSeat_upholds (s : State) (k : SeatNo) (edition : Word) (ws : Option (List Word)) :
    Upholds s (s.placeSeat k edition ws) := by
  cases ws with
  | none => exact retryTail_upholds s k
  | some ws => exact takeSeat_upholds s k edition (parseSeat ws)

theorem seatPlace_upholds (s : State) (x : SeatNo × Option Word) : Upholds s (seatPlace s x) := by
  unfold seatPlace
  split
  · exact retryTail_upholds s x.1
  · exact (placeSeat_upholds ..).from_eq (tailView_setIo ..)

theorem tailView_streamPlace (s : State) (x : StreamNo × Option Word) : tailView (streamPlace s x) = tailView s := by
  unfold streamPlace
  split
  · rfl
  · extract_lets words
    cases words.1 <;> rfl

/-- A fold of operations that leave the view alone, carrying a state beside something else. -/
theorem foldl_snd_tailView {α β : Type} {f : β × State → α → β × State}
    (h : ∀ x a, tailView (f x a).2 = tailView x.2) (l : List α) (x : β × State) :
    tailView (l.foldl f x).2 = tailView x.2 :=
  List.foldlRecOn l f (motive := fun y => tailView y.2 = tailView x.2) rfl fun y hy a _ => (h y a).trans hy

theorem tailView_readSeatEditions (s : State) : tailView (readSeatEditions s).2 = tailView s :=
  foldl_snd_tailView (f := seatEdition) (fun _ _ => tailView_setIo ..) _ ([], s)

theorem tailView_readStreamEditions (s : State) : tailView (readStreamEditions s).2 = tailView s :=
  foldl_snd_tailView (f := streamEdition) (fun _ _ => tailView_setIo ..) _ ([], s)

theorem adoptionScan_upholds (s : State) : Upholds s s.adoptionScan := by
  unfold State.adoptionScan
  extract_lets t a b
  have ht : Upholds s t := scanHeader_upholds s
  have ha : tailView a.2 = tailView t := tailView_readSeatEditions t
  have hb : tailView b.2 = tailView a.2 := tailView_readStreamEditions a.2
  have hseats : Upholds t (a.1.foldl seatPlace b.2) := (Upholds.foldl seatPlace_upholds _ _).from_eq (hb.trans ha)
  refine .ite (ht.trans (retries_upholds t)) (.trans (ht.trans hseats) (.of_eq ?_))
  exact foldl_tailView tailView_streamPlace _ _

theorem tailView_scanSeatCells (s : State) (k : SeatNo) : tailView (scanSeatCells s k) = tailView s := by
  refine (tailView_setIo ..).trans (tailView_modSeat ?_)
  exact fun _ => rfl

theorem tailView_cellScan (s : State) : tailView s.cellScan = tailView s := foldl_tailView tailView_scanSeatCells _ s

theorem scans_upholds (s : State) : Upholds s s.scans :=
  .ite (retries_upholds s) ((adoptionScan_upholds s).trans (.of_eq (tailView_cellScan _)))

/-! ## The boundary -/

theorem tailView_setTick (s : State) (t : TickMonitor) : tailView { s with tick := t } = tailView s :=
  tailView_congr rfl rfl

@[simp] theorem tailView_enterStandalone (s : State) : tailView s.enterStandalone = tailView s := by
  have hdetach (t : State) (cause : Word) :
      tailView (seatNumbers.foldl (fun x k => x.detachAll k cause) t) = tailView t :=
    foldl_tailView (fun x k => tailView_detachAll x k cause) _ t
  unfold State.enterStandalone
  extract_lets a b c d
  have hb : tailView b = tailView s := tailView_setTick s { a with standalone := true, aloneFrames := 0 }
  have hd : tailView d = tailView s := (hdetach c 2).trans hb
  refine (tailView_mapSeats ?_).trans hd
  exact fun _ => rfl

theorem tailView_expire (s : State) : tailView s.expire = tailView s := by
  simp [State.expire, apply_ite tailView, tailView_setTick]

theorem expireAndScan_upholds (s : State) : Upholds s s.expireAndScan :=
  (scans_upholds _).from_eq (tailView_expire s)

theorem seatTail_frameWorkSeat (e : Env) (k : SeatNo) (kept : SeatNo → Kept) (i : SeatInputs) (x : Seat) (io : Io) :
    seatTail (frameWorkSeat e k kept i x io).1 = seatTail x := rfl

theorem seatTail_idleSeat (e : Env) (k : SeatNo) (x : Seat) (io : Io) : seatTail (idleSeat e k x io).1 = seatTail x := rfl

/-- The work of a frame changes no tail. -/
theorem tailView_seatWork (s0 : State) (k : SeatNo) (s : State) : tailView (seatWork s0 k s) = tailView s := by
  unfold seatWork
  extract_lets r
  have hseat : seatTail r.1 = (account s k).toSeatTail := by
    unfold r
    split
    · exact seatTail_frameWorkSeat ..
    · exact seatTail_idleSeat ..
  refine .trans ?_ (put_account s k)
  exact tailView_eq_put rfl rfl hseat

theorem tailView_unitWork (s0 s : State) (w : Worker) : tailView (unitWork s0 s w) = tailView s := by
  cases w with
  | seat k => exact tailView_seatWork s0 k s
  | stream j => rfl

theorem tailView_unitBacks (s : State) (w : Worker) : tailView (unitBacks s w) = tailView s := by
  cases w <;> rfl

theorem tailView_unitReport (s : State) (w : Worker) : tailView (unitReport s w) = tailView s := by
  cases w with
  | seat k => rfl
  | stream j => simp [unitReport, apply_ite tailView]

theorem tailView_frameWork (s : State) (order : List Worker) : tailView (s.frameWork order) = tailView s := by
  unfold State.frameWork
  extract_lets ws a b d n
  calc tailView { n with tick := n.tick.endFrame } = tailView (ws.foldl unitReport b) := rfl
    _ = tailView b := foldl_tailView tailView_unitReport _ _
    _ = tailView a := foldl_tailView tailView_unitBacks _ _
    _ = tailView s := foldl_tailView (tailView_unitWork s) _ _

theorem tailView_actOnRun (s : State) : tailView s.actOnRun = tailView s := by
  have hstop : tailView s.stopWork = tailView s := rfl
  have hresume : tailView s.resumeWork = tailView s := by
    refine .trans ?_ (tailView_mapSeats (s := s) (f := resumeSeat) fun _ => rfl)
    exact tailView_congr rfl rfl
  simp [State.actOnRun, apply_ite tailView, hstop, hresume]

theorem tailView_promote (s : State) : tailView s.promote = tailView s := by
  refine tailView_congr_seats rfl fun k => ?_
  simp only [State.promote, tabulate_get, openSeat]
  split <;> rfl

theorem tailView_monitorTick (s : State) : tailView s.monitorTick = tailView s := by
  unfold State.monitorTick
  extract_lets r t u
  split <;> rfl

theorem openWork_upholds (s : State) : Upholds s s.openWork := by
  have hmonitor : Upholds s s.promote.monitorTick := .of_eq ((tailView_monitorTick _).trans (tailView_promote s))
  exact .ite hmonitor (hmonitor.trans (scans_upholds _))

theorem boundary_upholds (s : State) (order : List Worker) : Upholds s (s.boundary order) := by
  unfold State.boundary
  extract_lets a b c
  have ha : Upholds s a := .ite (expireAndScan_upholds s) (.refl s)
  have hb : tailView b = tailView a := by simp [b, apply_ite tailView, tailView_frameWork]
  have hc : tailView c = tailView b := tailView_actOnRun b.nextFrame
  have hwork : Upholds s c := ha.trans (.of_eq (hc.trans hb))
  exact .ite (hwork.trans (openWork_upholds c)) hwork

/-! ## Every step -/

theorem reset_pool : State.reset.pool = List.range Config.tailBlocks := by
  simp only [State.reset]

theorem reset_poolOk : State.reset.poolOk := by
  have hheld : State.reset.heldBlocks = [] := by simp [State.heldBlocks, State.reset, Seat.reset]
  rw [State.poolOk, hheld, List.append_nil, reset_pool]
  exact ⟨List.pairwise_lt_range, .refl _⟩

theorem reset_tailOk : State.reset.tailOk := fun k => by
  have hseat : State.reset.seats[k] = Seat.reset := by simp [State.reset]
  rw [hseat]
  exact SeatTail.lawful_of_no_tail (x := seatTail Seat.reset) rfl rfl

/-- The laws hold of a state that has the tails of a reset. -/
theorem Upholds.of_reset (h : tailView t = tailView State.reset) : Upholds s t where
  pool _ := (Upholds.of_eq h).pool reset_poolOk
  tail _ := (Upholds.of_eq h).tail reset_tailOk

theorem pinReset_upholds (s : State) : Upholds s s.pinReset := .of_reset (by simp only [tailView, State.pinReset])

theorem softReset_upholds (s : State) : Upholds s s.softReset :=
  .of_reset (by simp only [tailView, State.softReset, State.pinReset])

/-- A register write makes a soft reset, or leaves the tails alone. -/
theorem controlWrite_upholds (s : State) (w : Word) (f : Regs → Regs) :
    Upholds s (if asksReset w then s.softReset else s.modRegs f) :=
  .ite (softReset_upholds s) (.of_eq rfl)

/-- Every command keeps the laws: a reset sets them up anew, the two boundary commands keep them by their scans, and no other
command touches a tail. -/
theorem exec_upholds (i : Instr) (h : exec i s = .next t) : Upholds s t := by
  cases i with
  | pinReset => cases h; exact pinReset_upholds s
  | softReset => cases h; exact softReset_upholds s
  | run w => cases h; exact controlWrite_upholds ..
  | enableMask w => cases h; exact controlWrite_upholds ..
  | windowFaultClear w => cases h; exact .ite (.of_eq rfl) (.refl s)
  | registerWrite r w => cases r <;> cases h <;> exact .of_eq rfl
  | seatHighwayCycle up => cases h; exact .ite (.of_eq rfl) (.refl s)
  | debounceComplete slot bit => cases h; exact .of_eq rfl
  | receiveStoreArrival slots => cases h; exact .of_eq rfl
  | transmitStoreRead => cases h; exact .of_eq rfl
  | cycleStart bits => cases h; exact .of_eq rfl
  | syncTest sync => cases h; exact .of_eq rfl
  | frameBoundary turns order =>
    cases h
    have hboundary : Upholds s ((s.loadTurns turns).boundary order) := (boundary_upholds ..).from_eq rfl
    exact .ite (hboundary.trans (.of_eq rfl)) (.refl s)
  | hostTickExpiry turns =>
    cases h
    have hexpiry : Upholds s (s.loadTurns turns).expireAndScan := (expireAndScan_upholds _).from_eq rfl
    exact .ite (hexpiry.trans (.of_eq rfl)) (.refl s)

theorem step_upholds (h : step s = .next t) : Upholds s t := by
  unfold step at h
  split at h
  · cases h
    exact .refl s
  · next i rest _ => exact (exec_upholds i h).from_eq (tailView_congr rfl rfl)

/-! ## The operations on the lists, and the requests -/

theorem grantTail_other (s : State) {k j : SeatNo} (n : Nat) (hj : j ≠ k) :
    (s.grantTail k n).seats[j].blocks = s.seats[j].blocks := by
  simp [State.grantTail, Vector.getElem_set_ne, Fin.val_inj, hj.symm]

theorem grantTail_blocks (s : State) (k : SeatNo) (n : Nat) :
    (s.grantTail k n).seats[k].blocks = s.seats[k].blocks ++ s.pool.take n :=
  congrArg (·.blocks) (account_of_put (tailView_grantTail s k n))

theorem releaseTail_other (s : State) {k j : SeatNo} (keep : Nat) (hj : j ≠ k) :
    (s.releaseTail k keep).seats[j].blocks = s.seats[j].blocks := by
  simp [State.releaseTail, Vector.getElem_set_ne, Fin.val_inj, hj.symm]

theorem releaseTail_blocks (s : State) (k : SeatNo) (keep : Nat) :
    (s.releaseTail k keep).seats[k].blocks = s.seats[k].blocks.take keep :=
  congrArg (·.blocks) (account_of_put (tailView_releaseTail s k keep))

theorem releaseTail_sorted (k : SeatNo) (keep : Nat) (h : s.poolOk) :
    (s.releaseTail k keep).pool.Pairwise (· < ·) :=
  (Account.release_balances (account s k) keep).sorted h.1 (((poolOk_iff s).1 h).account_nodup k)

/-- No block is lost (R36). -/
theorem pool_length_add_heldBlocks_length (h : s.poolOk) : s.pool.length + s.heldBlocks.length = 256 := by
  simpa [Config.tailBlocks] using h.2.length_eq

theorem requestTail_granted {k : SeatNo} {n : Nat} (loud : Bool)
    (hn : n = min s.seats[k].adopted.echo.tailRequest s.pool.length) (h : s.seats[k].adopted.echo.tailFloor ≤ n) :
    s.requestTail k loud = { s with
      pool := s.pool.drop n
      seats := s.seats.set k { s.seats[k] with blocks := s.seats[k].blocks ++ s.pool.take n, waiting := false } } := by
  subst hn
  simp only [State.requestTail, if_pos h]
  simp [State.setWaiting, State.grantTail, State.modSeat]

theorem requestTail_refused {k : SeatNo} (loud : Bool)
    (h : min s.seats[k].adopted.echo.tailRequest s.pool.length < s.seats[k].adopted.echo.tailFloor) :
    s.requestTail k loud = { s with
      seats := s.seats.set k { s.seats[k] with waiting := true }
      io := if loud = true then
          hand s.env .poolShort (.seat k) (BitVec.ofNat 32 s.seats[k].adopted.echo.tailRequest)
            (BitVec.ofNat 32 s.seats[k].adopted.echo.tailFloor) (BitVec.ofNat 32 s.pool.length) s.io
        else s.io } := by
  simp only [State.requestTail, if_neg (Nat.not_le.2 h)]
  cases loud <;> rfl

end

/-- Settles O27: a step moves blocks by operations on one seat's `Account`, each of which keeps the blocks of the account and
the law of its seat. -/
theorem tailPoolLaw : Obligations.TailPoolLaw := by
  unfold Obligations.TailPoolLaw
  refine ⟨?grants, ?releases, ?keepsPool, ?total, reset_poolOk, reset_pool, ?resetBlocks, ?requests, ?keepsTails,
    reset_tailOk⟩
  case grants => exact fun s k n => ⟨grantTail_blocks s k n, rfl, fun j => grantTail_other s n⟩
  case releases =>
    exact fun s k keep h => ⟨releaseTail_blocks s k keep, Account.release_pool_perm (account s k) keep,
      releaseTail_sorted k keep h, fun j => releaseTail_other s keep⟩
  case keepsPool => exact fun s t h hstep => (step_upholds hstep).pool h
  case total => exact fun s => pool_length_add_heldBlocks_length
  case resetBlocks => exact fun k => by simp [State.reset, Seat.reset]
  case requests => exact fun s k loud => ⟨requestTail_granted loud rfl, requestTail_refused loud⟩
  case keepsTails => exact fun s t h hstep => (step_upholds hstep).tail h

end Sys2Proof.TailPool
end

section
/-! Residual attenuation (2.6, R31). -/

namespace Sys2Proof.ResidualCust

open Sys2Proof.Machine

/-- One sample multiplied by the residual gain, rounded and saturated (0.4). -/
theorem mulRound_eq (x : Sample) (gain : Nat) :
    mulRound x gain = max (-32768) (min 32767 ((x * gain + 8192) / 16384)) := rfl

/-- Residual attenuation acts on a frame or leaves it as it is (R31). -/
theorem residual_eq (e : Echo) (tracking voice doubleTalk : Bool) (cust : List Sample) :
    residual e tracking voice doubleTalk cust =
      if tracking = true ∧ voice = true ∧ doubleTalk = false then
        cust.map fun y : Int => max (-32768) (min 32767 ((y * e.residualGain + 8192) / 16384))
      else cust := by
  simp only [Machine.residual, mulRound_eq, Bool.and_eq_true, Bool.not_eq_true', and_assoc]

/-- The CUST that a seat keeps is the canceller's error with residual attenuation. -/
theorem seatAudio_cust (k : SeatNo) (kept : SeatNo → Kept) (i : SeatInputs) (x : Seat) :
    (seatAudio k kept i x).seat.kept.cust =
      let g := x.governing
      let ec := cancelFrame g.echo g.routing.mode.holdsSlot i.fault x.mixer.line i.y x.canceller
      residual g.echo (decide (x.canceller.state = .tracking))
        (suppressFrame g.noise i.status.present x.suppressor i.mic).1.voice ec.1.reasons.doubleTalk ec.2 := rfl

/-- The canceller that a seat keeps is that of the frame's samples, after the state decision: no residual attenuation is
in it. -/
theorem seatAudio_canceller (k : SeatNo) (kept : SeatNo → Kept) (i : SeatInputs) (x : Seat) :
    (seatAudio k kept i x).seat.canceller =
      (decideState k x.blocks.length (cancelFrame x.governing.echo x.governing.routing.mode.holdsSlot i.fault
        x.mixer.line i.y x.canceller).1).1 := rfl

/-- Settles O49: the CUST kept is `residual` of the canceller's errors, and the canceller kept does not see it. -/
theorem residualAttenuation : Obligations.ResidualAttenuation := by
  unfold Obligations.ResidualAttenuation
  intro k kept i x g e v a
  refine ⟨?_, seatAudio_canceller k kept i x⟩
  have hcust : a.kept.cust = residual g.echo (decide (x.canceller.state = .tracking)) v e.1.reasons.doubleTalk e.2 :=
    seatAudio_cust k kept i x
  rw [hcust, residual_eq]
  simp only [decide_eq_true_eq]

end Sys2Proof.ResidualCust
end

section
/-! The noise suppressor's band, floor and voice flag (Chapter 3: R54, R58, R59). -/

namespace Sys2Proof.NoiseSuppressor

open Sys2Proof.Machine

section
variable (n : Noise) (x : Suppressor) (xs : List Sample)

@[simp] theorem presentFrame_band : (presentFrame n x xs).1.band = bandOf (meanSquare xs) x.initialised.floor := rfl

@[simp] theorem presentFrame_floor :
    (presentFrame n x xs).1.floor = nextFloor n.floorRiseShift (meanSquare xs) x.initialised.floor := rfl

theorem presentFrame_voice_hangover :
    ((presentFrame n x xs).1.voice, (presentFrame n x xs).1.hangover) =
      nextVoice n (presentFrame n x xs).1.band x.initialised.hangover := rfl

end

/-! ## The band -/

section
variable {E F : Nat}

theorem bandOf_of_lt (h : E < 2 * F) : bandOf E F = 0 := if_pos h

/-- The search through the bands upwards ends at the largest band whose threshold the energy meets (R54). -/
theorem bandOf_eq_findGreatest (h : 2 * F ≤ E) : bandOf E F = Nat.findGreatest (fun k => F * 2 ^ k ≤ E) 7 :=
  if_neg h.not_gt

theorem bandOf_spec (h : 2 * F ≤ E) :
    1 ≤ bandOf E F ∧ bandOf E F ≤ 7 ∧ F * 2 ^ bandOf E F ≤ E ∧ ∀ k, bandOf E F < k → k ≤ 7 → E < F * 2 ^ k := by
  obtain ⟨hle, hmeets, hmax⟩ := Nat.findGreatest_eq_iff.1 (bandOf_eq_findGreatest h).symm
  have hpos : 1 ≤ bandOf E F := by
    by_contra hzero
    exact hmax (n := 1) (by omega) (by decide) (by omega)
  exact ⟨hpos, hle, hmeets (Nat.ne_zero_of_lt hpos), fun k hlt hk => Nat.lt_of_not_le (hmax hlt hk)⟩

end

/-- Settles O37: from 2 × F up the band is the greatest in 1..7 whose threshold the energy meets. -/
theorem bandOfFrame : Obligations.BandOfFrame := by
  unfold Obligations.BandOfFrame
  intro n x xs E F b
  exact ⟨bandOf_of_lt, bandOf_spec⟩

/-! ## The floor -/

section
variable (shift : Nat) {E F : Nat}

theorem nextFloor_of_lt (h : E < F) : nextFloor shift E F = max E 1 := if_pos h

theorem nextFloor_of_le (h : F ≤ E) : nextFloor shift E F = min E (F + F / 2 ^ shift + 1) := if_neg h.not_gt

/-- A frame whose energy lies under the floor does not raise it, and a raise stops at the frame's energy. -/
theorem nextFloor_le_energy_of_raised (h : F < nextFloor shift E F) : nextFloor shift E F ≤ E := by
  obtain hlt | hle := Nat.lt_or_ge E F
  · rw [nextFloor_of_lt shift hlt] at h
    omega
  · rw [nextFloor_of_le shift hle]
    exact Nat.min_le_left ..

theorem one_le_nextFloor (h : 1 ≤ F) : 1 ≤ nextFloor shift E F := by
  obtain hlt | hle := Nat.lt_or_ge E F
  · rw [nextFloor_of_lt shift hlt]
    exact Nat.le_max_right ..
  · rw [nextFloor_of_le shift hle]
    exact Nat.le_min.2 ⟨h.trans hle, Nat.le_add_left ..⟩

end

/-- Settles O38: the band and the new floor of a frame are both taken from the floor before it. -/
theorem floorUpdate : Obligations.FloorUpdate := by
  unfold Obligations.FloorUpdate
  intro n x xs E F G
  exact ⟨presentFrame_band n x xs, nextFloor_of_lt _, nextFloor_of_le _, nextFloor_le_energy_of_raised _,
    one_le_nextFloor _⟩

/-! ## The voice flag -/

section
variable {n : Noise} {b : Nat}

theorem nextVoice_of_le (h : n.vadBand ≤ b) (hangover : Nat) : nextVoice n b hangover = (true, n.vadHangover) := if_pos h

/-- Below vad_band the flag says whether the count stood above 0, and the count falls by one, down to 0 (R59). -/
theorem nextVoice_of_lt (h : b < n.vadBand) (hangover : Nat) :
    nextVoice n b hangover = (decide (0 < hangover), hangover - 1) := by
  rw [nextVoice, if_neg h.not_ge]
  cases hangover <;> rfl

/-- A run of frames below vad_band uses the count up, and the flag is 1 while the run is no longer than the count it
began with. -/
theorem foldl_nextVoice_of_lt (bs : List Nat) (hangover : Nat) (hbs : ∀ b ∈ bs, b < n.vadBand) :
    bs.foldl (fun v b => nextVoice n b v.2) (true, hangover) =
      (decide (bs.length ≤ hangover), hangover - bs.length) := by
  induction bs using List.reverseRecOn with
  | nil => simp
  | append_singleton bs b ih =>
    obtain ⟨hinit, hlast⟩ := List.forall_mem_append.1 hbs
    rw [List.foldl_append, ih hinit, List.foldl_cons, List.foldl_nil,
      nextVoice_of_lt (hlast b (List.mem_singleton_self b)), List.length_append, List.length_singleton]
    simp only [Nat.sub_pos_iff_lt, Nat.succ_le_iff, Nat.sub_sub]

end

/-- Settles O39: a frame at or above vad_band loads the count, and a run of frames below it, by induction on the run from
its end, counts down from there. -/
theorem voiceHangover : Obligations.VoiceHangover := by
  unfold Obligations.VoiceHangover
  refine ⟨?frame, ?run, ?absent⟩
  case frame =>
    intro n x xs t h
    have hnext : (t.voice, t.hangover) = nextVoice n t.band h := presentFrame_voice_hangover n x xs
    refine ⟨fun hvoice => ?_, fun hlow hpos => ?_, fun hlow hzero => ?_⟩
    · rw [nextVoice_of_le hvoice] at hnext
      exact Prod.mk.inj hnext
    · rw [nextVoice_of_lt hlow, decide_eq_true hpos] at hnext
      exact Prod.mk.inj hnext
    · rw [nextVoice_of_lt hlow, hzero] at hnext
      exact congrArg Prod.fst hnext
  case run =>
    intro n b bs h hvoice hlow
    rw [List.foldl_cons, nextVoice_of_le hvoice, foldl_nextVoice_of_lt bs _ hlow]
  case absent => exact fun x => rfl

end Sys2Proof.NoiseSuppressor
end

section
/-! The law of supervision (4.1, R74).  The law speaks of the mode, the target and the attachment list of every seat, of the
lists that govern, and of stand-alone operation, so a state is reduced to its `View`.  What the model does to the lists is
written out once over views.  There a change of ROUTING and a change of the lists touch different fields, so that an adopted
record is first its changes of the lists and then its ROUTING, and each of the two is seen to keep the law. -/

namespace Sys2Proof.SupervisionLaw

open Sys2Proof.Machine Sys2Proof.Laws Sys2Proof.SlotLaw

/-! ## The view that the law speaks of -/

/-- The part of a state that the law of supervision speaks of. -/
@[ext] structure View where
  routing : SeatNo → Routing
  target : SeatNo → Option SeatNo
  list : SeatNo → List Attachment
  governs : SeatNo → List Attachment
  standalone : Bool
  aloneFrames : Nat
  running : Bool

/-- What one seat shows of supervision: its ROUTING settings, its target, its list, and its list that governs. -/
structure SeatView where
  routing : Routing
  target : Option SeatNo
  list : List Attachment
  governs : List Attachment

/-- What a seat of the model shows of supervision. -/
def seatView (x : Seat) : SeatView :=
  ⟨x.adopted.routing, x.adopted.attachedTo, x.adopted.supervisors, x.governing.supervisors⟩

/-- What a state shows of supervision. -/
def view (s : State) : View where
  routing k := (seatView s.seats[k]).routing
  target k := (seatView s.seats[k]).target
  list k := (seatView s.seats[k]).list
  governs k := (seatView s.seats[k]).governs
  standalone := s.tick.standalone
  aloneFrames := s.tick.aloneFrames
  running := s.running

namespace View

/-- A supervisor leaves its target's list: `State.leaveTarget` (R70, R72). -/
def leave (v : View) (k : SeatNo) : View :=
  { v with
    target := Function.update v.target k none
    list := fun t => if v.target k = some t then (v.list t).filter fun a => decide (a.seat ≠ k) else v.list t }

/-- A supervisor is attached at the end of a list: `State.attach` (R71). -/
def attach (v : View) (t : SeatNo) (a : Attachment) : View :=
  { v with
    target := Function.update v.target a.seat (some t)
    list := Function.update v.list t (v.list t ++ [a]) }

/-- A supervisor changes in its place: `State.reattach` (R10, R70). -/
def reattach (v : View) (t : SeatNo) (a : Attachment) : View :=
  { v with list := Function.update v.list t ((v.list t).map fun b => if b.seat = a.seat then a else b) }

/-- Supervisors lose their target: a fold of `detachOne` (R73, R85). -/
def release (v : View) (l : List Attachment) : View :=
  { v with target := fun k => if ∃ a ∈ l, a.seat = k then none else v.target k }

/-- A target's list is emptied: `State.detachAll` (R73, R85). -/
def detachAll (v : View) (t : SeatNo) : View := { v.release (v.list t) with list := Function.update v.list t [] }

/-- A seat's ROUTING replaced. -/
def route (v : View) (k : SeatNo) (r : Routing) : View := { v with routing := Function.update v.routing k r }

/-- The first clauses of the law: lists of at most two, of seats in TALK or HOLD, and targets of seats in SUPERVISE, in
agreement with each other (R74). -/
structure Linked (v : View) : Prop where
  length : ∀ t, (v.list t).length ≤ 2
  nodup : ∀ t, ((v.list t).map Attachment.seat).Nodup
  holds : ∀ t, v.list t ≠ [] → (v.routing t).mode.holdsSlot = true
  agree : ∀ k t, v.target k = some t ↔ ∃ a ∈ v.list t, a.seat = k
  supervises : ∀ k t, v.target k = some t → (v.routing k).mode = .supervise

/-- No supervisor in stand-alone operation. -/
def Alone (v : View) : Prop := v.standalone = true → ∀ t, v.list t = []

/-- The lists that govern a frame of stand-alone operation after the first are empty. -/
def GovernedAlone (v : View) : Prop :=
  v.standalone = true → v.running = true → 1 ≤ v.aloneFrames → ∀ t, v.governs t = []

/-- The law of supervision, of a view. -/
structure Lawful (v : View) : Prop where
  linked : v.Linked
  alone : v.Alone
  governed : v.GovernedAlone

/-- Supervision is open: the lists are in order, and the part is not in stand-alone operation. -/
structure Attended (v : View) : Prop where
  linked : v.Linked
  notAlone : v.standalone = false

variable {v : View} {k t o : SeatNo} {a : Attachment} {r : Routing} {kind : Kind}

/-! ## What follows from the law -/

theorem Linked.target_eq_none (h : v.Linked) (hmode : (v.routing k).mode ≠ .supervise) : v.target k = none :=
  Option.eq_none_iff_forall_ne_some.2 fun t ht => hmode (h.supervises k t ht)

theorem Linked.list_eq_nil (h : v.Linked) (hmode : (v.routing k).mode.holdsSlot = false) : v.list k = [] :=
  not_not.1 fun hlist => Bool.false_ne_true (hmode.symm.trans (h.holds k hlist))

/-- A supervisor on a list has the list's seat as its target. -/
theorem Linked.target_of_mem (h : v.Linked) (ha : a ∈ v.list t) : v.target a.seat = some t :=
  (h.agree a.seat t).2 ⟨a, ha, rfl⟩

/-- This part of the law reads ROUTING, targets and lists alone. -/
theorem Linked.congr {w : View} (h : v.Linked) (hrouting : w.routing = v.routing) (htarget : w.target = v.target)
    (hlist : w.list = v.list) : w.Linked := by
  cases v
  cases w
  cases hrouting
  cases htarget
  cases hlist
  exact ⟨h.length, h.nodup, h.holds, h.agree, h.supervises⟩

theorem Attended.lawful (h : v.Attended) : v.Lawful where
  linked := h.linked
  alone halone := by simp [h.notAlone] at halone
  governed halone := by simp [h.notAlone] at halone

/-! ## What the operations keep -/

theorem leave_of_target_eq_none (h : v.target k = none) : v.leave k = v := by
  refine View.ext rfl ?_ ?_ rfl rfl rfl rfl
  · exact Function.update_eq_self_iff.2 h.symm
  · simp [leave, h]

theorem detachAll_of_list_eq_nil (h : v.list t = []) : v.detachAll t = v := by
  refine View.ext rfl ?_ ?_ rfl rfl rfl rfl
  · simp [detachAll, release, h]
  · exact Function.update_eq_self_iff.2 h.symm

/-- Leaving takes the seat off the one list it stands on. -/
theorem Linked.mem_leave (h : v.Linked) (a : Attachment) (k t : SeatNo) :
    a ∈ (v.leave k).list t ↔ a ∈ v.list t ∧ a.seat ≠ k := by
  by_cases ht : v.target k = some t
  · simp [leave, ht]
  · simpa only [leave, ht, if_false, iff_self_and] using fun ha (hk : a.seat = k) => ht (hk ▸ h.target_of_mem ha)

theorem leave_list_sublist (v : View) (k t : SeatNo) : ((v.leave k).list t).Sublist (v.list t) := by
  unfold leave
  dsimp only
  split
  · exact List.filter_sublist
  · exact .refl _

theorem Linked.leave (h : v.Linked) (k : SeatNo) : (v.leave k).Linked where
  length t := (leave_list_sublist v k t).length_le.trans (h.length t)
  nodup t := ((leave_list_sublist v k t).map _).nodup (h.nodup t)
  holds t hlist := h.holds t fun hnil => hlist (List.sublist_nil.1 (hnil ▸ leave_list_sublist v k t))
  agree j t := by
    simp only [h.mem_leave, and_assoc]
    by_cases hj : j = k
    · simp [View.leave, hj]
    · simp only [View.leave, Function.update_of_ne hj, h.agree]
      exact exists_congr fun a => and_congr_right fun _ => ⟨fun ha => ⟨ha ▸ hj, ha⟩, And.right⟩
  supervises j t htarget := by
    by_cases hj : j = k
    · simp [View.leave, hj] at htarget
    · exact h.supervises j t (by simpa [View.leave, hj] using htarget)

theorem detachAll_list (v : View) (t u : SeatNo) : (v.detachAll t).list u = if u = t then [] else v.list u :=
  Function.update_apply ..

/-- The seats that stand on a list are those that have its seat as their target. -/
theorem Linked.detachAll_target (h : v.Linked) (t k : SeatNo) :
    (v.detachAll t).target k = if v.target k = some t then none else v.target k := by
  simp only [View.detachAll, release, h.agree]

theorem Linked.detachAll (h : v.Linked) (t : SeatNo) : (v.detachAll t).Linked where
  length u := by rw [detachAll_list]; split <;> simp [h.length]
  nodup u := by rw [detachAll_list]; split <;> simp [h.nodup]
  holds u hlist := h.holds u fun hnil => hlist (by rw [detachAll_list, hnil, ite_self])
  agree k u := by
    rw [h.detachAll_target, detachAll_list]
    by_cases hu : u = t
    · subst hu
      split <;> simp_all
    · rw [if_neg hu, ← h.agree]
      split
      · next ht => simpa [ht] using fun heq => hu heq.symm
      · rfl
  supervises k u htarget := by
    rw [h.detachAll_target] at htarget
    split at htarget
    · cases htarget
    · exact h.supervises k u htarget

/-- New ROUTING suits a seat's place in the lists. -/
theorem Linked.route (h : v.Linked) (hlist : v.list k ≠ [] → r.mode.holdsSlot = true)
    (htarget : v.target k ≠ none → r.mode = .supervise) : (v.route k r).Linked where
  length := h.length
  nodup := h.nodup
  holds t ht := by
    by_cases hk : t = k
    · subst hk
      simpa [View.route] using hlist ht
    · simpa [View.route, hk] using h.holds t ht
  agree := h.agree
  supervises j t hj := by
    by_cases hk : j = k
    · subst hk
      have hsome : v.target j ≠ none := Option.ne_none_iff_exists'.2 ⟨t, hj⟩
      simpa [View.route] using htarget hsome
    · simpa [View.route, hk] using h.supervises j t hj

/-- A seat in SUPERVISE with no target joins a list that has room. -/
theorem Linked.attach (h : v.Linked) (hfree : v.target a.seat = none) (hmode : (v.routing a.seat).mode = .supervise)
    (hroom : (v.list t).length < 2) (hcall : (v.routing t).mode.holdsSlot = true) : (v.attach t a).Linked where
  length u := by
    by_cases hu : u = t
    · subst hu
      simpa [View.attach] using Nat.le_of_lt_succ hroom
    · simpa [View.attach, hu] using h.length u
  nodup u := by
    by_cases hu : u = t
    · subst hu
      have off : ∀ b ∈ v.list u, b.seat ≠ a.seat := fun b hb hseat => by
        simpa [hseat, hfree] using h.target_of_mem hb
      simpa [View.attach, List.nodup_append, h.nodup u] using off
    · simpa [View.attach, hu] using h.nodup u
  holds u hlist := by
    by_cases hu : u = t
    · exact hu ▸ hcall
    · exact h.holds u (by simpa [View.attach, hu] using hlist)
  agree j u := by
    have off : ¬ ∃ b ∈ v.list u, b.seat = a.seat := by simp [← h.agree, hfree]
    by_cases hj : j = a.seat <;> by_cases hu : u = t
    · subst hu
      simp [View.attach, hj]
    · simpa [View.attach, hj, hu, Ne.symm hu] using off
    · subst hu
      simp [View.attach, hj, h.agree, or_and_right, exists_or, Ne.symm hj]
    · simp [View.attach, hj, hu, h.agree]
  supervises j u htarget := by
    by_cases hj : j = a.seat
    · exact hj ▸ hmode
    · exact h.supervises j u (by simpa [View.attach, hj] using htarget)

/-- A change in its place leaves every list with the seats that stand on it. -/
theorem reattach_seats (v : View) (t u : SeatNo) (a : Attachment) :
    ((v.reattach t a).list u).map Attachment.seat = (v.list u).map Attachment.seat := by
  by_cases hu : u = t
  · subst hu
    simp only [reattach, Function.update_self, List.map_map]
    refine List.map_congr_left fun b _ => ?_
    simp only [Function.comp_apply]
    split <;> simp_all
  · simp [reattach, hu]

theorem Linked.reattach (h : v.Linked) (t : SeatNo) (a : Attachment) : (v.reattach t a).Linked where
  length u := by
    have hlength := congrArg List.length (reattach_seats v t u a)
    simp only [List.length_map] at hlength
    exact hlength ▸ h.length u
  nodup u := reattach_seats v t u a ▸ h.nodup u
  holds u hlist := h.holds u fun hnil => hlist (List.map_eq_nil_iff.1 ((reattach_seats v t u a).trans (by simp [hnil])))
  agree j u := by
    rw [← List.mem_map, reattach_seats, List.mem_map]
    exact h.agree j u
  supervises := h.supervises

/-! ## The lists after a change of mode -/

/-- A seat's new ROUTING of mode IDLE, with what it does to the lists (R11, R12, R73). -/
def toIdle (v : View) (k : SeatNo) (r : Routing) : View := ((v.detachAll k).leave k).route k r

/-- The same of TALK and HOLD (R7, R12). -/
def toCall (v : View) (k : SeatNo) (r : Routing) : View := (v.leave k).route k r

/-- The same of SUPERVISE, with a target and a kind (R10, R71). -/
def toSupervise (v : View) (k : SeatNo) (r : Routing) (t : SeatNo) (kind : Kind) : View :=
  if v.target k = some t then (v.route k r).reattach t ⟨k, kind, r.pushToTalk⟩
  else ((v.leave k).route k r).attach t ⟨k, kind, r.pushToTalk⟩

theorem toSupervise_target : (v.toSupervise k r t kind).target k = some t := by
  unfold toSupervise
  split
  · next ht => exact ht
  · exact Function.update_self ..

theorem toSupervise_standalone (v : View) (k : SeatNo) (r : Routing) (t : SeatNo) (kind : Kind) :
    (v.toSupervise k r t kind).standalone = v.standalone := by
  unfold toSupervise
  split <;> rfl

theorem toSupervise_list_in_place (ht : v.target k = some t) :
    (v.toSupervise k r t kind).list t =
      (v.list t).map fun a => if a.seat = k then ⟨k, kind, r.pushToTalk⟩ else a := by
  simp [toSupervise, ht, reattach, route]

theorem toSupervise_list_joined (ht : v.target k ≠ some t) :
    (v.toSupervise k r t kind).list t = v.list t ++ [⟨k, kind, r.pushToTalk⟩] := by
  simp [toSupervise, ht, attach, route, leave]

theorem toSupervise_list_left (ho : v.target k = some o) (hot : o ≠ t) :
    (v.toSupervise k r t kind).list o = (v.list o).filter fun a => decide (a.seat ≠ k) := by
  simp [toSupervise, ho, hot, attach, route, leave]

theorem toCall_target : (v.toCall k r).target k = none := Function.update_self ..

theorem toCall_list_left (ho : v.target k = some o) :
    (v.toCall k r).list o = (v.list o).filter fun a => decide (a.seat ≠ k) := if_pos ho

theorem toIdle_target : (v.toIdle k r).target k = none := Function.update_self ..

theorem Linked.toIdle_list_left (h : v.Linked) (ho : v.target k = some o) :
    (v.toIdle k r).list o = (v.list o).filter fun a => decide (a.seat ≠ k) := by
  have hnil : v.list k = [] := h.list_eq_nil (by simp [h.supervises k o ho, Mode.holdsSlot])
  rw [View.toIdle, detachAll_of_list_eq_nil hnil]
  exact toCall_list_left ho

theorem toIdle_list (v : View) (k : SeatNo) (r : Routing) : (v.toIdle k r).list k = [] := by
  have hsub := leave_list_sublist (v.detachAll k) k k
  rw [detachAll_list, if_pos rfl] at hsub
  exact List.sublist_nil.1 hsub

/-- A seat in a call that goes to IDLE lets its supervisors go, which stay in SUPERVISE (R11, R73). -/
theorem Linked.toIdle_supervisor (h : v.Linked) (hcall : (v.routing k).mode.holdsSlot = true)
    (ha : a ∈ v.list k) :
    (v.toIdle k r).target a.seat = none ∧ (v.toIdle k r).routing a.seat = v.routing a.seat := by
  have hne : a.seat ≠ k := fun heq => by
    have hsup := h.supervises _ _ (h.target_of_mem ha)
    simp [← heq, hsup, Mode.holdsSlot] at hcall
  refine ⟨?_, Function.update_of_ne hne ..⟩
  have hleft : (v.toIdle k r).target a.seat = (v.detachAll k).target a.seat := Function.update_of_ne hne ..
  rw [hleft, h.detachAll_target, if_pos (h.target_of_mem ha)]

/-- What the checks leave to a request for SUPERVISE (Table 1-6). -/
structure Admits (v : View) (k t : SeatNo) : Prop where
  other : t ≠ k
  calls : (v.routing t).mode.holdsSlot = true
  room : (v.list t).length < 2 ∨ v.target k = some t
  free : v.list k = []

theorem Linked.toIdle (h : v.Linked) (k : SeatNo) (r : Routing) : (v.toIdle k r).Linked :=
  ((h.detachAll k).leave k).route (fun hlist => absurd (toIdle_list v k r) hlist)
    fun htarget => absurd (Function.update_self ..) htarget

theorem Linked.toCall (h : v.Linked) (k : SeatNo) (hr : r.mode.holdsSlot = true) : (v.toCall k r).Linked :=
  (h.leave k).route (fun _ => hr) fun htarget => absurd (Function.update_self ..) htarget

theorem Linked.toSupervise (h : v.Linked) (hadm : v.Admits k t) (hr : r.mode = .supervise) (kind : Kind) :
    (v.toSupervise k r t kind).Linked := by
  unfold View.toSupervise
  split
  · exact (h.route (fun hlist => absurd hadm.free hlist) fun _ => hr).reattach t ⟨k, kind, r.pushToTalk⟩
  · next ht =>
    have hlist : (v.leave k).list t = v.list t := if_neg ht
    have hfree : (v.leave k).list k = [] := List.sublist_nil.1 (hadm.free ▸ leave_list_sublist v k k)
    have hleft : ((v.leave k).route k r).Linked := (h.leave k).route (fun hne => absurd hfree hne) fun _ => hr
    refine hleft.attach (a := ⟨k, kind, r.pushToTalk⟩) (Function.update_self ..) ?_ ?_ ?_
    · simpa [View.route] using hr
    · simpa [View.route, hlist, ht] using hadm.room
    · simpa [View.route, hadm.other, View.leave] using hadm.calls

end View

theorem attachmentsOk_iff (s : State) : s.attachmentsOk ↔ (view s).Lawful :=
  ⟨fun ⟨hlist, hagree, hsup, halone, hgoverned⟩ =>
    ⟨⟨fun t => (hlist t).1, fun t => (hlist t).2.1, fun t => (hlist t).2.2, hagree, hsup⟩, halone, hgoverned⟩,
  fun ⟨h, halone, hgoverned⟩ =>
    ⟨fun t => ⟨h.length t, h.nodup t, h.holds t⟩, h.agree, h.supervises, halone, hgoverned⟩⟩

/-! ## The named updates -/

section

variable {s t : State}

theorem view_congr_seats (hseats : ∀ k : SeatNo, seatView t.seats[k] = seatView s.seats[k]) (htick : t.tick = s.tick)
    (hrunning : t.running = s.running) : view t = view s :=
  View.ext (funext fun k => congrArg SeatView.routing (hseats k)) (funext fun k => congrArg SeatView.target (hseats k))
    (funext fun k => congrArg SeatView.list (hseats k)) (funext fun k => congrArg SeatView.governs (hseats k))
    (congrArg TickMonitor.standalone htick) (congrArg TickMonitor.aloneFrames htick) hrunning

theorem view_modSeat {k : SeatNo} {f : Seat → Seat} (h : ∀ x, seatView (f x) = seatView x) :
    view (s.modSeat k f) = view s :=
  view_congr_seats (fun j => by
    rw [modSeat_get]
    split
    · next hkj => rw [h, hkj]
    · rfl) rfl rfl

theorem view_mapSeats {f : Seat → Seat} (h : ∀ x, seatView (f x) = seatView x) : view (s.mapSeats f) = view s :=
  view_congr_seats (fun k => by rw [mapSeats_seats, tabulate_get, h]) rfl rfl

/-- A change of adopted settings. -/
theorem view_modAdopted (s : State) (k : SeatNo) (f : Settings → Settings) :
    view (s.modAdopted k f) = { view s with
      routing := Function.update (view s).routing k (f s.seats[k].adopted).routing
      target := Function.update (view s).target k (f s.seats[k].adopted).attachedTo
      list := Function.update (view s).list k (f s.seats[k].adopted).supervisors } := by
  refine View.ext ?_ ?_ ?_ ?_ rfl rfl rfl
  all_goals
    funext j
    by_cases hj : j = k
    · subst hj
      simp [view, modAdopted_eq, seatView]
    · simp [view, modAdopted_eq, seatView, hj, Fin.val_inj, Vector.getElem_set, Ne.symm hj]

theorem view_modRouting (s : State) (k : SeatNo) (f : Routing → Routing) :
    view (s.modAdopted k fun g => { g with routing := f g.routing }) = (view s).route k (f ((view s).routing k)) :=
  (view_modAdopted ..).trans
    (View.ext rfl (Function.update_eq_self k _) (Function.update_eq_self k _) rfl rfl rfl rfl)

theorem view_setTarget (s : State) (k : SeatNo) (o : Option SeatNo) :
    view (s.modAdopted k fun g => { g with attachedTo := o }) =
      { view s with target := Function.update (view s).target k o } :=
  (view_modAdopted ..).trans
    (View.ext (Function.update_eq_self k _) rfl (Function.update_eq_self k _) rfl rfl rfl rfl)

theorem view_modList (s : State) (k : SeatNo) (f : List Attachment → List Attachment) :
    view (s.modAdopted k fun g => { g with supervisors := f g.supervisors }) =
      { view s with list := Function.update (view s).list k (f ((view s).list k)) } :=
  (view_modAdopted ..).trans
    (View.ext (Function.update_eq_self k _) (Function.update_eq_self k _) rfl rfl rfl rfl rfl)

@[simp] theorem view_setIo (s : State) (io : Io) : view (s.setIo io) = view s := rfl

@[simp] theorem view_hand (s : State) (c : Code) (src : Source) (d0 d1 d2 : Word) :
    view (s.hand c src d0 d1 d2) = view s := rfl

@[simp] theorem view_modStream (s : State) (j : StreamNo) (f : Stream → Stream) :
    view (s.modStream j f) = view s := rfl

@[simp] theorem view_modDue (s : State) (k : SeatNo) (f : Due → Due) : view (s.modDue k f) = view s :=
  view_modSeat fun _ => rfl

/-- A fold of operations that leave the view alone. -/
theorem foldl_view {α : Type} {f : State → α → State} (h : ∀ s a, view (f s a) = view s) (l : List α) (s : State) :
    view (l.foldl f s) = view s :=
  List.foldlRecOn l f (motive := fun t => view t = view s) rfl fun t ht a _ => (h t a).trans ht

/-- The same of a fold that carries a state beside something else. -/
theorem foldl_snd_view {α β : Type} {f : β × State → α → β × State} (h : ∀ x a, view (f x a).2 = view x.2) (l : List α)
    (x : β × State) : view (l.foldl f x).2 = view x.2 :=
  List.foldlRecOn l f (motive := fun y => view y.2 = view x.2) rfl fun y hy a _ => (h y a).trans hy

/-- A fold of operations that keep supervision in order. -/
theorem foldl_attended {α : Type} {f : State → α → State} (h : ∀ s a, (view s).Attended → (view (f s a)).Attended)
    (l : List α) (hs : (view s).Attended) : (view (l.foldl f s)).Attended :=
  List.foldlRecOn l f (motive := fun t => (view t).Attended) hs fun t ht a _ => h t a ht

/-! ## The attachment lists -/

@[simp] theorem view_leaveTarget (s : State) (k : SeatNo) : view (s.leaveTarget k) = (view s).leave k := by
  unfold State.leaveTarget
  split
  · next h => exact (View.leave_of_target_eq_none h).symm
  · next t h =>
    have ht : (view s).target k = some t := h
    rw [view_setTarget, view_modList]
    refine View.ext rfl rfl (funext fun u => ?_) rfl rfl rfl rfl
    simp only [View.leave, ht, Option.some.injEq, Function.update_apply, eq_comm (a := u)]
    split <;> simp_all

@[simp] theorem view_attach (s : State) (k t : SeatNo) (kind : Kind) (ptt : Bool) :
    view (s.attach k t kind ptt) = (view s).attach t ⟨k, kind, ptt⟩ := by
  have hlist := view_modList s t fun l => l ++ [⟨k, kind, ptt⟩]
  rw [State.attach, view_setTarget, hlist]
  rfl

@[simp] theorem view_reattach (s : State) (k t : SeatNo) (kind : Kind) (ptt : Bool) :
    view (s.reattach k t kind ptt) = (view s).reattach t ⟨k, kind, ptt⟩ := by
  have hplace : (fun a : Attachment => if a.seat = k then { a with kind := kind, pushToTalk := ptt } else a) =
      fun a => if a.seat = k then ⟨k, kind, ptt⟩ else a := by
    funext a
    split <;> simp_all
  rw [State.reattach, view_modList s t (List.map _), hplace]
  rfl

theorem view_detachOne (t : SeatNo) (cause : Word) (s : State) (a : Attachment) :
    view (detachOne t cause s a) = { view s with target := Function.update (view s).target a.seat none } := by
  rw [detachOne, view_hand, view_setTarget]

theorem view_foldl_detachOne (t : SeatNo) (cause : Word) (l : List Attachment) (s : State) :
    view (l.foldl (detachOne t cause) s) = (view s).release l := by
  induction l generalizing s with
  | nil => simp [View.release]
  | cons a l ih =>
    rw [List.foldl_cons, ih, view_detachOne]
    refine View.ext rfl (funext fun k => ?_) rfl rfl rfl rfl rfl
    by_cases hk : k = a.seat
    · simp [View.release, hk]
    · simp [View.release, hk, Ne.symm hk]

@[simp] theorem view_detachAll (s : State) (t : SeatNo) (cause : Word) :
    view (s.detachAll t cause) = (view s).detachAll t := by
  rw [State.detachAll, view_modList _ t fun _ => [], view_foldl_detachOne]
  rfl

/-! ## The Tail Pool, the slots and the streams -/

@[simp] theorem view_releaseTail (s : State) (k : SeatNo) (keep : Nat) : view (s.releaseTail k keep) = view s :=
  (view_congr_seats (fun _ => rfl) rfl rfl).trans
    (view_modSeat (f := fun x => { x with blocks := s.seats[k].blocks.take keep }) fun _ => rfl)

@[simp] theorem view_grantTail (s : State) (k : SeatNo) (n : Nat) : view (s.grantTail k n) = view s :=
  (view_congr_seats (fun _ => rfl) rfl rfl).trans
    (view_modSeat (f := fun x => { x with blocks := x.blocks ++ s.pool.take n }) fun _ => rfl)

@[simp] theorem view_setWaiting (s : State) (k : SeatNo) (w : Bool) : view (s.setWaiting k w) = view s :=
  view_modSeat fun _ => rfl

@[simp] theorem view_poolShort (s : State) (k : SeatNo) (e : Echo) : view (s.poolShort k e) = view s := rfl

@[simp] theorem view_requestTail (s : State) (k : SeatNo) (loud : Bool) : view (s.requestTail k loud) = view s := by
  simp [State.requestTail, apply_ite view]

@[simp] theorem view_retryTail (s : State) (k : SeatNo) : view (s.retryTail k) = view s := by
  simp [State.retryTail, apply_ite view]

@[simp] theorem view_growTail (s : State) (k : SeatNo) : view (s.growTail k) = view s := by
  simp [State.growTail, apply_ite view]

@[simp] theorem view_dropTail (s : State) (k : SeatNo) : view (s.dropTail k) = view s := by
  simp [State.dropTail]

@[simp] theorem view_resizeTail (s : State) (k : SeatNo) (old : Nat) : view (s.resizeTail k old) = view s := by
  simp [State.resizeTail, apply_ite view]

@[simp] theorem view_freeSlots (s : State) (k : SeatNo) (keep : Option Nat) : view (s.freeSlots k keep) = view s := rfl

@[simp] theorem view_claimSlot (s : State) (k : SeatNo) (n : Nat) : view (s.claimSlot k n) = view s := by
  unfold State.claimSlot
  split <;> rfl

@[simp] theorem view_joinHold (s : State) (n : Nat) : view (s.joinHold n) = view s := by
  unfold State.joinHold
  split <;> rfl

@[simp] theorem view_leaveHold (s : State) (n : Nat) : view (s.leaveHold n) = view s := by
  unfold State.leaveHold
  split <;> rfl

@[simp] theorem view_enterHold (s : State) (k : SeatNo) : view (s.enterHold k) = view s := by
  simp [State.enterHold, apply_ite view]

@[simp] theorem view_exitHold (s : State) (k : SeatNo) (old : Settings) : view (s.exitHold k old) = view s := by
  simp [State.exitHold, apply_ite view]

@[simp] theorem view_exitIdle (s : State) (k : SeatNo) (old : Settings) : view (s.exitIdle k old) = view s := by
  simp [State.exitIdle, apply_ite view]

@[simp] theorem view_leaveCall (s : State) (k : SeatNo) (old : Settings) : view (s.leaveCall k old) = view s := by
  simp [State.leaveCall, apply_ite view]

@[simp] theorem view_stayInCall (s : State) (k : SeatNo) (old : Settings) (r : Routing) :
    view (s.stayInCall k old r) = view s := by
  have hchange : view (s.changeHold k old r) = view s := by
    unfold State.changeHold
    split <;> simp [apply_ite view]
  simp [State.stayInCall, State.moveSlot, apply_ite view, hchange]

/-! ## Changes of mode -/

/-- A seat whose settings before the change are not of SUPERVISE stands on no list. -/
theorem view_ite_leaveTarget {k : SeatNo} {old : Settings}
    (htarget : (view s).target k ≠ none → old.routing.mode = .supervise) :
    view (if old.routing.mode = .supervise then s.leaveTarget k else s) = (view s).leave k := by
  split
  · exact view_leaveTarget s k
  · next hold => exact (View.leave_of_target_eq_none (not_not.1 (mt htarget hold))).symm

/-- A seat whose settings before the change are of no call has no supervisors. -/
theorem view_ite_detachAll {k : SeatNo} {old : Settings}
    (hlist : (view s).list k ≠ [] → old.routing.mode.holdsSlot = true) :
    view (if old.routing.mode.holdsSlot = true then s.detachAll k 1 else s) = (view s).detachAll k := by
  split
  · exact view_detachAll s k 1
  · next hold => exact (View.detachAll_of_list_eq_nil (not_not.1 (mt hlist hold))).symm

/-- Entering IDLE: the seat's own list is emptied and it leaves the list it stands on (R11, R12). -/
theorem view_enterIdle {k : SeatNo} {old : Settings} (hlist : (view s).list k ≠ [] → old.routing.mode.holdsSlot = true)
    (htarget : (view s).target k ≠ none → old.routing.mode = .supervise) :
    view (s.enterIdle k old) = ((view s).detachAll k).leave k := by
  unfold State.enterIdle
  extract_lets a b c
  have ha : view a = view s := view_leaveCall s k old
  have hb : view b = (view s).detachAll k := by
    rw [← ha]
    exact view_ite_detachAll (ha ▸ hlist)
  have hstill : (view b).target k ≠ none → (view s).target k ≠ none := by
    rw [hb]
    simp only [View.detachAll, View.release]
    split <;> simp
  rw [view_modDue, ← hb]
  exact view_ite_leaveTarget (htarget ∘ hstill)

/-- Entering a call: the seat leaves the list it stands on (R7, R12). -/
theorem view_enterCall {k : SeatNo} {old : Settings} (r : Routing)
    (htarget : (view s).target k ≠ none → old.routing.mode = .supervise) :
    view (s.enterCall k old r).1 = (view s).leave k := by
  unfold State.enterCall
  extract_lets a b asks c d
  have ha : view a = (view s).leave k := view_ite_leaveTarget htarget
  simp only [apply_ite view, view_enterHold, ite_self, d, c, b, view_exitIdle, view_requestTail, view_claimSlot, ha]

end

/-! ## Adopted records -/

section

variable {s : State} {v : View} {k t : SeatNo} {old : Settings} {r : Routing}

namespace View

/-- Settings that have the ROUTING and the target of a seat. -/
def Held (v : View) (k : SeatNo) (old : Settings) : Prop := old.routing = v.routing k ∧ old.attachedTo = v.target k

/-- A seat on a list is in SUPERVISE. -/
theorem Linked.old_supervises (h : v.Linked) (hold : v.Held k old) (htarget : v.target k ≠ none) :
    old.routing.mode = .supervise := by
  rw [hold.1]
  exact not_not.1 (mt h.target_eq_none htarget)

/-- A seat with supervisors is in a call. -/
theorem Linked.old_calls (h : v.Linked) (hold : v.Held k old) (hlist : v.list k ≠ []) :
    old.routing.mode.holdsSlot = true :=
  hold.1 ▸ h.holds k hlist

end View

open View

theorem view_supervise {kind : Kind} (hv : v.Linked) (hold : v.Held k old) (hs : view s = v.route k r)
    (hkind : decodeKind r.kind = some kind) (ht : r.target = some t.val) :
    view (s.supervise k old r) = v.toSupervise k r t kind := by
  unfold State.supervise View.toSupervise
  simp only [hkind, ht, t.isLt, dif_pos, Fin.eta, apply_ite view, view_reattach, view_attach, view_leaveTarget,
    view_exitIdle, view_leaveCall, hs, hold.2]
  split
  · rfl
  · next hmode =>
    have hfree : v.target k = none := not_not.1 (mt (hv.old_supervises hold) hmode)
    rw [leave_of_target_eq_none hfree, if_neg (by simp [hfree])]

/-- The ROUTING settings of step 2 of an adoption stand before anything else of it is done (R184). -/
theorem view_applyRouting_first (s : State) (k : SeatNo) (old : Settings) (r : Routing) :
    let u := s.modAdopted k fun g => { g with routing := r }
    view (if (old.routing.keyMuteAllowed && !r.keyMuteAllowed) = true then
        u.modDue k fun d => { d with clearKeyMute := true } else u) = (view s).route k r := by
  intro u
  have hu : view u = (view s).route k r := view_modRouting s k fun _ => r
  simp [apply_ite view, hu]

theorem view_applyRouting_idle (hv : (view s).Linked) (hold : (view s).Held k old) (hmode : r.mode = .idle) :
    view (s.applyRouting k old r).1 = (view s).toIdle k r := by
  unfold State.applyRouting
  extract_lets u w
  have hw : view w = (view s).route k r := view_applyRouting_first s k old r
  simp only [hmode]
  split
  · next hidle =>
    have hnone : (view s).target k = none := not_not.1 (mt (hv.old_supervises hold) (by simp [hidle]))
    have hnil : (view s).list k = [] := not_not.1 (mt (hv.old_calls hold) (by simp [hidle, Mode.holdsSlot]))
    rw [hw, toIdle, detachAll_of_list_eq_nil hnil, leave_of_target_eq_none hnone]
  · rw [view_enterIdle (hw ▸ hv.old_calls hold) (hw ▸ hv.old_supervises hold), hw]
    rfl

theorem view_applyRouting_call (hv : (view s).Linked) (hold : (view s).Held k old) (hmode : r.mode.holdsSlot = true) :
    view (s.applyRouting k old r).1 = (view s).toCall k r := by
  have call {w : State} (hw : view w = (view s).route k r) :
      view (if old.routing.mode.holdsSlot = true then (w.stayInCall k old r, false) else w.enterCall k old r).1 =
        (view s).toCall k r := by
    split
    · next hcall =>
      have hnone : (view s).target k = none := by
        refine not_not.1 (mt (hv.old_supervises hold) fun hsup => ?_)
        simp [hsup, Mode.holdsSlot] at hcall
      rw [view_stayInCall, hw, toCall, leave_of_target_eq_none hnone]
    · rw [view_enterCall r (hw ▸ hv.old_supervises hold), hw]
      rfl
  unfold State.applyRouting
  extract_lets u w
  have hw : view w = (view s).route k r := view_applyRouting_first s k old r
  cases hr : r.mode with
  | talk => exact call hw
  | hold => exact call hw
  | idle => simp [hr, Mode.holdsSlot] at hmode
  | supervise => simp [hr, Mode.holdsSlot] at hmode

theorem view_applyRouting_supervise {kind : Kind} (hv : (view s).Linked) (hold : (view s).Held k old)
    (hmode : r.mode = .supervise) (hkind : decodeKind r.kind = some kind) (ht : r.target = some t.val) :
    view (s.applyRouting k old r).1 = (view s).toSupervise k r t kind := by
  unfold State.applyRouting
  extract_lets u w
  simp only [hmode]
  exact view_supervise hv hold (view_applyRouting_first s k old r) hkind ht

end

section

open View

variable {s : State} {k : SeatNo} {r : SeatRecord}

/-- A state after the change of mode of an adoption (R184, step 2), for a record that names ROUTING. -/
def routed (s : State) (k : SeatNo) (r : SeatRecord) : State :=
  if r.namesRouting then ((s.modAdopted k (storeGroups r)).applyRouting k s.seats[k].adopted r.routing.adopt).1 else s

theorem view_storeGroups (s : State) (k : SeatNo) (r : SeatRecord) : view (s.modAdopted k (storeGroups r)) = view s :=
  view_modSeat fun _ => rfl

@[simp] theorem view_applyEcho (s : State) (k : SeatNo) (old new : Echo) (clear asked : Bool) :
    view (s.applyEcho k old new clear asked).1 = view s := by
  unfold State.applyEcho
  split
  · split
    · split <;> simp [apply_ite view]
    · simp
  · rfl

@[simp] theorem view_applyCadence (s : State) (k : SeatNo) (old new : Cadence) (restart : Bool) :
    view (s.applyCadence k old new restart) = view s := view_modDue ..

@[simp] theorem view_applyCancel (s : State) (k : SeatNo) (all : Bool) (cell : Nat) :
    view (s.applyCancel k all cell) = view s := view_modSeat fun _ => rfl

@[simp] theorem view_takeEdition (s : State) (k : SeatNo) (edition : Word) :
    view (s.takeEdition k edition) = view s := view_modSeat fun _ => rfl

/-- Of the five steps of an adoption (R184), the second alone can change what the law speaks of. -/
theorem view_adoptSeat (s : State) (k : SeatNo) (edition : Word) (r : SeatRecord) :
    view (s.adoptSeat k edition r).1 = view (routed s k r) := by
  unfold State.adoptSeat
  extract_lets old u x y z w
  have hx : view x.1 = view (routed s k r) := by
    unfold x routed
    split
    · rfl
    · exact view_storeGroups s k r
  have hy : view y.1 = view x.1 := by
    unfold y
    split <;> simp
  have hz : view z = view y.1 := by simp [z, apply_ite view]
  have hw : view w = view z := by simp [w, apply_ite view]
  rw [view_takeEdition, hw, hz, hy, hx]

theorem view_takeSeat (edition : Word) (hcheck : checkRecord s k r = none) :
    view (s.takeSeat k edition r) = view (routed s k r) := by
  rw [← view_adoptSeat s k edition]
  simp [State.takeSeat, hcheck, apply_ite view]

/-- Step 2 of an adoption finds the settings that the seat held before the record. -/
theorem held_storeGroups (s : State) (k : SeatNo) (r : SeatRecord) :
    (view (s.modAdopted k (storeGroups r))).Held k s.seats[k].adopted := by
  rw [view_storeGroups]
  exact ⟨rfl, rfl⟩

theorem view_routed_unnamed (hnames : r.namesRouting = false) : view (routed s k r) = view s := by
  simp [routed, hnames]

theorem view_routed_idle (hv : (view s).Linked) (hnames : r.namesRouting = true)
    (hmode : decodeMode r.routing.mode = some .idle) :
    view (routed s k r) = (view s).toIdle k r.routing.adopt := by
  have hstore := view_storeGroups s k r
  rw [routed, if_pos hnames, view_applyRouting_idle (hstore ▸ hv) (held_storeGroups s k r) (by
    simp [RoutingRecord.adopt, hmode]), hstore]

theorem view_routed_call {m : Mode} (hv : (view s).Linked) (hnames : r.namesRouting = true)
    (hmode : decodeMode r.routing.mode = some m) (hm : m.holdsSlot = true) :
    view (routed s k r) = (view s).toCall k r.routing.adopt := by
  have hstore := view_storeGroups s k r
  rw [routed, if_pos hnames, view_applyRouting_call (hstore ▸ hv) (held_storeGroups s k r) (by
    simp [RoutingRecord.adopt, hmode, hm]), hstore]

theorem view_routed_supervise {t : SeatNo} {kind : Kind} (hv : (view s).Linked) (hnames : r.namesRouting = true)
    (hmode : decodeMode r.routing.mode = some .supervise) (hkind : decodeKind r.routing.kind = some kind)
    (ht : r.routing.target = t.val) :
    view (routed s k r) = (view s).toSupervise k r.routing.adopt t kind := by
  have hstore := view_storeGroups s k r
  rw [routed, if_pos hnames, view_applyRouting_supervise (hstore ▸ hv) (held_storeGroups s k r) (by
    simp [RoutingRecord.adopt, hmode]) hkind (congrArg some ht), hstore]

theorem holdsSlot_of_ne {m : Mode} (hidle : m ≠ .idle) (hsup : m ≠ .supervise) : m.holdsSlot = true := by
  cases m <;> simp_all [Mode.holdsSlot]

/-- A request for SUPERVISE that passes the checks. -/
theorem admits_of_checkTarget {n : Nat} (hv : (view s).Linked) (h : checkTarget s k n = none) :
    ∃ t : SeatNo, n = t.val ∧ (view s).Admits k t := by
  unfold checkTarget at h
  split at h
  · next hn =>
    refine ⟨⟨n, hn⟩, rfl, ?_⟩
    dsimp only at h
    split_ifs at h with hother hidle hfull hfree
    obtain ⟨hk, -, hsup⟩ : n ≠ k.val ∧ n < s.header.seats ∧ s.seats[n].adopted.routing.mode ≠ .supervise := by
      simpa only [not_or, not_le] using hother
    refine ⟨fun heq => hk (congrArg Fin.val heq), ?_, ?_, not_not.1 hfree⟩
    · exact holdsSlot_of_ne hidle hsup
    · refine or_iff_not_imp_left.2 fun hroom => (hv.agree k ⟨n, hn⟩).2 ?_
      have hlength : 2 ≤ s.seats[n].adopted.supervisors.length := Nat.not_lt.1 hroom
      obtain ⟨a, ha, hseat⟩ : ∃ a ∈ s.seats[n].adopted.supervisors, a.seat = k := by simpa [hlength] using hfull
      exact ⟨a, ha, hseat⟩
  · cases h

theorem supervise_of_checkRouting {r : RoutingRecord} (hv : (view s).Linked) (h : checkRouting s k r = none)
    (hmode : decodeMode r.mode = some .supervise) :
    ∃ (t : SeatNo) (kind : Kind), r.target = t.val ∧ decodeKind r.kind = some kind ∧ (view s).Admits k t := by
  unfold checkRouting at h
  simp only [hmode] at h
  split at h
  · cases h
  · next hkind =>
    obtain ⟨kind, hkind⟩ := Option.ne_none_iff_exists'.1 (by simpa using hkind)
    obtain ⟨t, ht, hadm⟩ := admits_of_checkTarget hv h
    exact ⟨t, kind, ht, hkind, hadm⟩

theorem decodeMode_of_checkRouting {r : RoutingRecord} (h : checkRouting s k r = none) :
    ∃ m, decodeMode r.mode = some m := by
  refine Option.ne_none_iff_exists'.1 fun hnone => ?_
  simp [checkRouting, hnone] at h

/-- A record that passes the checks keeps supervision in order. -/
theorem routed_attended (h : (view s).Attended) (hcheck : checkRecord s k r = none) : (view (routed s k r)).Attended := by
  obtain ⟨hv, hopen⟩ := h
  cases hnames : r.namesRouting
  · rw [view_routed_unnamed hnames]
    exact ⟨hv, hopen⟩
  · have hrouting := checkRouting_of_checkRecord hcheck hnames
    obtain ⟨m, hmode⟩ := decodeMode_of_checkRouting hrouting
    have call (hm : m.holdsSlot = true) : (view (routed s k r)).Attended := by
      rw [view_routed_call hv hnames hmode hm]
      exact ⟨hv.toCall k (by simp [RoutingRecord.adopt, hmode, hm]), hopen⟩
    cases m with
    | idle =>
      rw [view_routed_idle hv hnames hmode]
      exact ⟨hv.toIdle k _, hopen⟩
    | talk => exact call rfl
    | hold => exact call rfl
    | supervise =>
      obtain ⟨t, kind, ht, hkind, hadm⟩ := supervise_of_checkRouting hv hrouting hmode
      rw [view_routed_supervise hv hnames hmode hkind ht]
      exact ⟨hv.toSupervise hadm (by simp [RoutingRecord.adopt, hmode]) kind,
        (toSupervise_standalone ..).trans hopen⟩

theorem takeSeat_attended (k : SeatNo) (edition : Word) (r : SeatRecord) (h : (view s).Attended) :
    (view (s.takeSeat k edition r)).Attended := by
  cases hcheck : checkRecord s k r with
  | some why => simpa [State.takeSeat, hcheck, State.refuseSeat] using h
  | none =>
    rw [view_takeSeat edition hcheck]
    exact routed_attended h hcheck

/-! ## The scans -/

/-- A seat that leaves service is taken to IDLE (R1, R11). -/
theorem view_leaveService (k : SeatNo) (hv : (view s).Linked) :
    view (s.leaveService k) = (view s).toIdle k { s.seats[k].adopted.routing with mode := .idle } := by
  unfold State.leaveService
  extract_lets old u w
  have hold : (view s).Held k old := ⟨rfl, rfl⟩
  have hu : view u = (view s).route k { old.routing with mode := .idle } :=
    view_modRouting s k fun r => { r with mode := .idle }
  have hw : view w = _ := view_enterIdle (hu ▸ hv.old_calls hold) (hu ▸ hv.old_supervises hold)
  refine (view_modSeat ?_).trans (hw.trans (by rw [hu]; rfl))
  exact fun _ => rfl

theorem leaveService_attended (s : State) (k : SeatNo) (h : (view s).Attended) : (view (s.leaveService k)).Attended := by
  rw [view_leaveService k h.linked]
  exact ⟨h.linked.toIdle k _, h.notAlone⟩

theorem adoptHeader_attended (edition : Word) (x : HeaderRecord) (h : (view s).Attended) :
    (view (s.adoptHeader edition x)).Attended :=
  foldl_attended leaveService_attended (leavers s.header.seats x.seats) h

theorem takeHeader_attended (edition : Word) (x : HeaderRecord) (h : (view s).Attended) :
    (view (s.takeHeader edition x)).Attended := by
  unfold State.takeHeader
  split
  · exact adoptHeader_attended edition x h
  · exact h

theorem scanHeader_attended (h : (view s).Attended) : (view s.scanHeader).Attended := by
  unfold State.scanHeader State.readHeader
  extract_lets r
  split
  · exact h
  · extract_lets words
    cases words.1 with
    | none => exact h
    | some ws => exact takeHeader_attended _ _ h

theorem view_retries (s : State) : view s.retries = view s := foldl_view view_retryTail _ s

theorem placeSeat_attended (k : SeatNo) (edition : Word) (ws : Option (List Word)) (h : (view s).Attended) :
    (view (s.placeSeat k edition ws)).Attended := by
  cases ws with
  | none => exact view_retryTail s k ▸ h
  | some ws => exact takeSeat_attended k edition (parseSeat ws) h

theorem seatPlace_attended (s : State) (x : SeatNo × Option Word) (h : (view s).Attended) :
    (view (seatPlace s x)).Attended := by
  unfold seatPlace
  split
  · exact view_retryTail s x.1 ▸ h
  · exact placeSeat_attended _ _ _ (by rwa [view_setIo])

theorem view_streamPlace (s : State) (x : StreamNo × Option Word) : view (streamPlace s x) = view s := by
  unfold streamPlace
  split
  · rfl
  · extract_lets words
    cases words.1 <;> rfl

theorem view_readSeatEditions (s : State) : view (readSeatEditions s).2 = view s :=
  foldl_snd_view (f := seatEdition) (fun _ _ => view_setIo ..) _ ([], s)

theorem view_readStreamEditions (s : State) : view (readStreamEditions s).2 = view s :=
  foldl_snd_view (f := streamEdition) (fun _ _ => view_setIo ..) _ ([], s)

theorem adoptionScan_attended (h : (view s).Attended) : (view s.adoptionScan).Attended := by
  have hheader := scanHeader_attended h
  unfold State.adoptionScan
  extract_lets t a b
  split
  · exact view_retries t ▸ hheader
  · have ha : view a.2 = view t := view_readSeatEditions t
    have hb : view b.2 = view a.2 := view_readStreamEditions a.2
    have hread : (view b.2).Attended := by rwa [hb, ha]
    rw [foldl_view view_streamPlace]
    exact foldl_attended seatPlace_attended _ hread

theorem view_scanSeatCells (s : State) (k : SeatNo) : view (scanSeatCells s k) = view s := by
  unfold scanSeatCells
  rw [view_setIo]
  exact view_modSeat fun _ => rfl

theorem view_cellScan (s : State) : view s.cellScan = view s := foldl_view view_scanSeatCells _ s

/-- In stand-alone operation the scans make only the retries (R126, R179). -/
theorem scans_lawful (h : (view s).Lawful) : (view s.scans).Lawful := by
  unfold State.scans
  split
  · exact view_retries s ▸ h
  · next hopen =>
    have hattended : (view s).Attended := ⟨h.linked, Bool.eq_false_of_not_eq_true hopen⟩
    rw [view_cellScan]
    exact (adoptionScan_attended hattended).lawful

/-! ## The expiry -/

namespace View

/-- Stand-alone operation begins, the lists not yet emptied. -/
def enterAlone (v : View) : View := { v with standalone := true, aloneFrames := 0 }

theorem Linked.enterAlone {v : View} (h : v.Linked) : v.enterAlone.Linked := h.congr rfl rfl rfl

theorem foldl_detachAll_aloneFrames (v : View) (l : List SeatNo) :
    (l.foldl View.detachAll v).aloneFrames = v.aloneFrames :=
  List.foldlRecOn l View.detachAll (motive := fun w => w.aloneFrames = v.aloneFrames) rfl
    fun w (hw : w.aloneFrames = _) _ _ => hw

/-- Lists emptied one after another. -/
theorem Linked.foldl_detachAll {v : View} (h : v.Linked) (l : List SeatNo) : (l.foldl View.detachAll v).Linked :=
  List.foldlRecOn l View.detachAll h fun _ hw t _ => hw.detachAll t

theorem foldl_detachAll_list (v : View) (l : List SeatNo) (t : SeatNo) :
    (l.foldl View.detachAll v).list t = if t ∈ l then [] else v.list t := by
  induction l generalizing v with
  | nil => simp
  | cons k l ih =>
    rw [List.foldl_cons, ih, detachAll_list]
    by_cases hk : t = k <;> simp [hk]

end View

theorem view_foldl_detachAll (l : List SeatNo) (cause : Word) (s : State) :
    view (l.foldl (fun x k => x.detachAll k cause) s) = l.foldl View.detachAll (view s) := by
  induction l generalizing s with
  | nil => rfl
  | cons k l ih => rw [List.foldl_cons, ih, view_detachAll, List.foldl_cons]

/-- Entry to stand-alone operation empties every list (R85). -/
theorem view_enterStandalone (s : State) :
    view s.enterStandalone = seatNumbers.foldl View.detachAll ((view s).enterAlone) := by
  unfold State.enterStandalone
  extract_lets a b c d
  have hc : view c = (view s).enterAlone := rfl
  have hd : view d = seatNumbers.foldl View.detachAll (view c) := view_foldl_detachAll seatNumbers 2 c
  rw [← hc, ← hd]
  refine view_mapSeats ?_
  exact fun _ => rfl

theorem enterStandalone_lawful (hv : (view s).Linked) : (view s.enterStandalone).Lawful := by
  rw [view_enterStandalone]
  refine ⟨hv.enterAlone.foldl_detachAll _, fun _ t => ?_, fun _ _ hone => ?_⟩
  · rw [foldl_detachAll_list, if_pos]
    exact List.mem_finRange t
  · rw [foldl_detachAll_aloneFrames] at hone
    exact absurd hone (Nat.not_succ_le_zero 0)

end

section

variable {s t : State}

theorem view_setTick_expired (s : State) (b : Bool) : view { s with tick := { s.tick with expired := b } } = view s := rfl

theorem expire_lawful (h : (view s).Lawful) : (view s.expire).Lawful := by
  unfold State.expire
  extract_lets tick u
  have hu : view u = view s := view_setTick_expired s false
  split
  · exact hu ▸ h
  · split
    · exact enterStandalone_lawful (hu ▸ h.linked)
    · rw [view_hand, hu]
      exact h

theorem expireAndScan_lawful (h : (view s).Lawful) : (view s.expireAndScan).Lawful := scans_lawful (expire_lawful h)

/-! ## The boundary -/

theorem seatView_frameWorkSeat (e : Env) (k : SeatNo) (kept : SeatNo → Kept) (i : SeatInputs) (x : Seat) (io : Io) :
    seatView (frameWorkSeat e k kept i x io).1 = seatView x := rfl

theorem seatView_idleSeat (e : Env) (k : SeatNo) (x : Seat) (io : Io) : seatView (idleSeat e k x io).1 = seatView x := rfl

/-- The work of a frame changes no list. -/
theorem view_seatWork (s0 : State) (k : SeatNo) (s : State) : view (seatWork s0 k s) = view s := by
  refine view_congr_seats (fun j => ?_) rfl rfl
  by_cases hj : k.val = j.val
  · obtain rfl := Fin.ext hj
    simp only [seatWork, Fin.getElem_fin, Vector.getElem_set_self]
    split
    · rw [seatView_frameWorkSeat]
    · rw [seatView_idleSeat]
  · simp only [seatWork, Fin.getElem_fin, Vector.getElem_set_ne _ _ hj]

theorem view_unitWork (s0 s : State) (w : Worker) : view (unitWork s0 s w) = view s := by
  cases w with
  | seat k => exact view_seatWork s0 k s
  | stream j => exact view_congr_seats (fun _ => rfl) rfl rfl

theorem view_unitBacks (s : State) (w : Worker) : view (unitBacks s w) = view s := by
  cases w with
  | seat k => rfl
  | stream j => exact view_congr_seats (fun _ => rfl) rfl rfl

theorem view_unitReport (s : State) (w : Worker) : view (unitReport s w) = view s := by
  cases w with
  | seat k => rfl
  | stream j => simp [unitReport, apply_ite view]

/-- The end of a frame counts it, if it was of stand-alone operation (R195). -/
theorem view_endFrame (s : State) :
    view { s with tick := s.tick.endFrame } = { view s with aloneFrames := s.tick.endFrame.aloneFrames } := by
  refine View.ext rfl rfl rfl rfl ?_ rfl rfl
  simp only [view, TickMonitor.endFrame]
  split <;> rfl

theorem view_frameWork (s : State) (order : List Worker) :
    view (s.frameWork order) = { view s with aloneFrames := (s.frameWork order).tick.aloneFrames } := by
  unfold State.frameWork
  extract_lets ws a b d n
  have hn : view n = view s :=
    calc view n = view (ws.foldl unitReport b) := rfl
      _ = view b := foldl_view view_unitReport _ _
      _ = view a := foldl_view view_unitBacks _ _
      _ = view s := foldl_view (view_unitWork s) _ _
  rw [view_endFrame, hn]

theorem view_actOnRun (s : State) : view s.actOnRun = { view s with running := s.actOnRun.running } := by
  have hstop : view s.stopWork = { view s with running := false } := rfl
  have hresume : view s.resumeWork = { view s with running := true } := by
    have hseats : view (s.mapSeats resumeSeat) = view s := view_mapSeats fun _ => rfl
    rw [← hseats]
    rfl
  unfold State.actOnRun
  split
  · split
    · rfl
    · exact hstop
  · split
    · exact hresume
    · rfl

theorem view_promote (s : State) : view s.promote = { view s with governs := (view s).list } := by
  have hseat (k : SeatNo) : seatView s.promote.seats[k] =
      ⟨(view s).routing k, (view s).target k, (view s).list k, (view s).list k⟩ := by
    simp only [State.promote, tabulate_get, openSeat]
    split <;> rfl
  exact View.ext (funext fun k => (congrArg SeatView.routing (hseat k) :))
    (funext fun k => (congrArg SeatView.target (hseat k) :)) (funext fun k => (congrArg SeatView.list (hseat k) :))
    (funext fun k => (congrArg SeatView.governs (hseat k) :)) rfl rfl rfl

theorem unchanged_standalone (m : TickMonitor) : m.unchanged.standalone = m.standalone := by
  unfold TickMonitor.unchanged
  split <;> rfl

theorem unchanged_aloneFrames (m : TickMonitor) : m.unchanged.aloneFrames = m.aloneFrames := by
  unfold TickMonitor.unchanged
  split <;> rfl

/-- The monitor's boundary work ends stand-alone operation or leaves it (R195, R198); it never begins it. -/
theorem standalone_of_observe {m : TickMonitor} {word : Option Word} (h : (m.observe word).standalone = true) :
    m.standalone = true := by
  unfold TickMonitor.observe at h
  split at h
  · exact h
  · split at h
    · split at h
      · rwa [unchanged_standalone] at h
      · cases h
    · rwa [unchanged_standalone] at h

theorem observe_aloneFrames (m : TickMonitor) (word : Option Word) : (m.observe word).aloneFrames = m.aloneFrames := by
  unfold TickMonitor.observe
  split
  · rfl
  · split
    · split
      · exact unchanged_aloneFrames m
      · rfl
    · exact unchanged_aloneFrames m

theorem view_monitorTick (s : State) :
    view s.monitorTick = { view s with standalone := s.monitorTick.tick.standalone } := by
  unfold State.monitorTick
  extract_lets r m io u
  have hu : view u = { view s with standalone := m.standalone } :=
    View.ext rfl rfl rfl rfl rfl (observe_aloneFrames ..) rfl
  split
  · exact hu
  · exact hu

theorem standalone_of_monitorTick {s : State} (h : s.monitorTick.tick.standalone = true) : s.tick.standalone = true := by
  unfold State.monitorTick at h
  extract_lets r m io u at h
  refine standalone_of_observe (word := r.1) ?_
  split at h <;> exact h

/-- The boundary work of a part that runs brings the lists of the scan before into force, which stand-alone operation has
emptied. -/
theorem openWork_lawful (hv : (view s).Linked) (halone : (view s).Alone) : (view s.openWork).Lawful := by
  have hmonitor : (view s.promote.monitorTick).Lawful := by
    rw [view_monitorTick, view_promote]
    have still (h : s.promote.monitorTick.tick.standalone = true) : ∀ t, (view s).list t = [] :=
      halone (standalone_of_monitorTick (s := s.promote) h)
    exact ⟨hv.congr rfl rfl rfl, still, fun h _ _ => still h⟩
  unfold State.openWork
  extract_lets u
  split
  · exact hmonitor
  · exact scans_lawful hmonitor

theorem boundary_lawful (order : List Worker) (h : (view s).Lawful) : (view (s.boundary order)).Lawful := by
  unfold State.boundary
  extract_lets a b c
  have ha : (view a).Lawful := by
    unfold a State.settleExpiry
    split
    · exact expireAndScan_lawful h
    · exact h
  have hb : view b = { view a with aloneFrames := b.tick.aloneFrames } := by
    unfold b
    split
    · exact view_frameWork a order
    · rfl
  have hc : view c = { view a with aloneFrames := b.tick.aloneFrames, running := c.running } := by
    have hframe : view b.nextFrame = view b := rfl
    rw [view_actOnRun b.nextFrame, hframe, hb]
  have hlinked : (view c).Linked := by
    rw [hc]
    exact ha.linked.congr rfl rfl rfl
  have halone : (view c).Alone := by
    rw [hc]
    exact ha.alone
  split
  · exact openWork_lawful hlinked halone
  · next hstopped => exact ⟨hlinked, halone, fun _ hrunning => absurd hrunning hstopped⟩

/-! ## Every step -/

theorem reset_attachmentsOk : State.reset.attachmentsOk := by
  simp [State.attachmentsOk, State.reset, Seat.reset, Settings.reset, TickMonitor.reset]

theorem reset_lawful : (view State.reset).Lawful := (attachmentsOk_iff _).1 reset_attachmentsOk

theorem pinReset_lawful (s : State) : (view s.pinReset).Lawful := reset_lawful

theorem softReset_lawful (s : State) : (view s.softReset).Lawful := reset_lawful

/-- A register write makes a soft reset, or leaves supervision alone. -/
theorem controlWrite_lawful {w : Word} {f : Regs → Regs} (h : (view s).Lawful) :
    (view (if asksReset w then s.softReset else s.modRegs f)).Lawful := by
  split
  · exact softReset_lawful s
  · exact h

/-- Every command keeps the law: a reset sets it up anew, the two boundary commands keep it by their scans, and no other
command touches a list. -/
theorem exec_lawful (i : Instr) (hs : (view s).Lawful) (h : exec i s = .next t) : (view t).Lawful := by
  cases i with
  | pinReset => cases h; exact pinReset_lawful s
  | softReset => cases h; exact softReset_lawful s
  | run w => cases h; exact controlWrite_lawful hs
  | enableMask w => cases h; exact controlWrite_lawful hs
  | windowFaultClear w => cases h; split <;> exact hs
  | registerWrite r w => cases r <;> cases h <;> exact hs
  | seatHighwayCycle up => cases h; split <;> exact hs
  | debounceComplete slot bit => cases h; exact hs
  | receiveStoreArrival slots => cases h; exact hs
  | transmitStoreRead => cases h; exact hs
  | cycleStart bits => cases h; exact hs
  | syncTest sync => cases h; exact hs
  | frameBoundary turns order =>
    cases h
    split
    · exact boundary_lawful (s := s.loadTurns turns) order hs
    · exact hs
  | hostTickExpiry turns =>
    cases h
    split
    · exact expireAndScan_lawful (s := s.loadTurns turns) hs
    · exact hs

theorem step_lawful (hs : (view s).Lawful) (h : step s = .next t) : (view t).Lawful := by
  unfold step at h
  split at h
  · cases h
    exact hs
  · next i rest _ => exact exec_lawful (s := { s with pending := rest }) i hs h

end

section

variable {s t : State} {v : View}

theorem attachedTo_of_view (h : view t = v) (j : SeatNo) : t.seats[j].adopted.attachedTo = v.target j :=
  congrArg (fun w => w.target j) h

theorem supervisors_of_view (h : view t = v) (j : SeatNo) : t.seats[j].adopted.supervisors = v.list j :=
  congrArg (fun w => w.list j) h

theorem routing_of_view (h : view t = v) (j : SeatNo) : t.seats[j].adopted.routing = v.routing j :=
  congrArg (fun w => w.routing j) h

end

/-- Settles O32: the step is taken apart into operations on the `View`, each of which keeps the law, and an adopted record is
`View.toIdle`, `View.toCall` or `View.toSupervise`. -/
theorem supervisionLawKept : Obligations.SupervisionLawKept := by
  unfold Obligations.SupervisionLawKept
  refine ⟨fun s t hok hstep => ?keeps, reset_attachmentsOk, fun s k edition r hok hcheck => ?adopts⟩
  case keeps =>
    rw [attachmentsOk_iff] at hok ⊢
    exact step_lawful hok hstep
  case adopts =>
    intro t old
    have hv : (view s).Linked := ((attachmentsOk_iff s).1 hok).linked
    have htaken : view t = view (routed s k r) := view_takeSeat edition hcheck
    have hrouting := checkRouting_of_checkRecord hcheck
    refine ⟨fun hnames j => ?unnamed, fun hnames hmode => ?supervise, fun hnames hmode => ?other,
      fun hnames hmode hcall => ?idle⟩
    case unnamed =>
      have hview := htaken.trans (view_routed_unnamed hnames)
      exact ⟨attachedTo_of_view hview j, supervisors_of_view hview j⟩
    case supervise =>
      obtain ⟨u, kind, hu, hkind, -⟩ := supervise_of_checkRouting hv (hrouting hnames) hmode
      have hview := htaken.trans (view_routed_supervise hv hnames hmode hkind hu)
      exact ⟨u, kind, hu, hkind, (attachedTo_of_view hview k).trans View.toSupervise_target,
        fun h => (supervisors_of_view hview u).trans (View.toSupervise_list_in_place h),
        fun h => (supervisors_of_view hview u).trans (View.toSupervise_list_joined h),
        fun o ho hou => (supervisors_of_view hview o).trans (View.toSupervise_list_left ho hou)⟩
    case other =>
      obtain ⟨m, hm⟩ := decodeMode_of_checkRouting (hrouting hnames)
      by_cases hcall : m.holdsSlot = true
      · have hview := htaken.trans (view_routed_call hv hnames hm hcall)
        exact ⟨(attachedTo_of_view hview k).trans View.toCall_target,
          fun o ho => (supervisors_of_view hview o).trans (View.toCall_list_left ho)⟩
      · have hidle : decodeMode r.routing.mode = some .idle := by
          cases m <;> simp_all [Mode.holdsSlot]
        have hview := htaken.trans (view_routed_idle hv hnames hidle)
        exact ⟨(attachedTo_of_view hview k).trans View.toIdle_target,
          fun o ho => (supervisors_of_view hview o).trans (hv.toIdle_list_left ho)⟩
    case idle =>
      have hview := htaken.trans (view_routed_idle hv hnames hmode)
      refine ⟨(supervisors_of_view hview k).trans (View.toIdle_list ..), fun a ha => ?_⟩
      obtain ⟨hfree, hstays⟩ := hv.toIdle_supervisor (r := r.routing.adopt) hcall ha
      exact ⟨(attachedTo_of_view hview a.seat).trans hfree, (routing_of_view hview a.seat).trans hstays⟩

end Sys2Proof.SupervisionLaw
end

section
/-! The check of the Network Highway (9.6, R166): the count of failed cycles in a row, the storm flag and CHECK_STORM. -/

namespace Sys2Proof.CheckStorm

open Sys2Proof.Machine

theorem countUp_of_lt {n : Nat} (h : n < Config.countTop) : countUp n = n + 1 := if_pos h

/-! ## One failed cycle -/

theorem checkCycle_eq_failCycle {slots : Vector Word 33} {p : NetPort} (hcheck : p.current.check = true)
    (hfails : slotBits p.current.narrow slots[32] ≠ checkOf (voiceSamples p.current.narrow slots)) :
    checkCycle slots p = failCycle p :=
  if_pos (by rw [hcheck, decide_eq_true hfails, Bool.true_and])

section
variable (p : NetPort)

@[simp] theorem failCycle_checkFailures : (failCycle p).1.checkFailures = countUp p.checkFailures := rfl

@[simp] theorem failCycle_consecutive : (failCycle p).1.consecutive = min 32 (p.consecutive + 1) := rfl

/-- A cycle storms when it brings the count to 32 and the flag is clear (R166). -/
def storms : Bool := decide (min 32 (p.consecutive + 1) = 32) && !p.storm

@[simp] theorem failCycle_storm : (failCycle p).1.storm = (p.storm || storms p) := rfl

@[simp] theorem failCycle_notices : (failCycle p).2.2 =
    if storms p then [⟨.checkStorm, .network, BitVec.ofNat 32 (countUp p.checkFailures), 0, 0⟩] else [] := rfl

theorem storms_iff : storms p = true ↔ 31 ≤ p.consecutive ∧ p.storm = false := by
  rw [storms, Bool.and_eq_true, decide_eq_true_iff, Bool.not_eq_true']
  exact and_congr_left' (by omega)

end

/-! ## A run of failed cycles -/

/-- The port after `n` failed cycles in a row, with the notices that they handed. -/
def failCycles (n : Nat) (p : NetPort) : NetPort × List NoticeOut :=
  (List.range n).foldl (fun x _ => let f := failCycle x.1; (f.1, x.2 ++ f.2.2)) (p, [])

theorem failCycles_succ (n : Nat) (p : NetPort) :
    failCycles (n + 1) p =
      ((failCycle (failCycles n p).1).1, (failCycles n p).2 ++ (failCycle (failCycles n p).1).2.2) := by
  rw [failCycles, List.range_succ, List.foldl_append]
  rfl

section
variable {p : NetPort}

theorem failCycles_checkFailures {n : Nat} (h : p.checkFailures + n ≤ Config.countTop) :
    (failCycles n p).1.checkFailures = p.checkFailures + n := by
  induction n with
  | zero => rfl
  | succ n ih =>
    rw [failCycles_succ, failCycle_checkFailures, ih (by omega)]
    exact countUp_of_lt (by omega)

theorem failCycles_consecutive (hrow : p.consecutive = 0) (n : Nat) :
    (failCycles n p).1.consecutive = min 32 n := by
  induction n with
  | zero => exact hrow
  | succ n ih =>
    rw [failCycles_succ, failCycle_consecutive, ih]
    omega

/-- The flag, set at the 32nd failed cycle, stays set: every later cycle finds the count at 32. -/
theorem failCycles_storm (hrow : p.consecutive = 0) (hclear : p.storm = false) (n : Nat) :
    (failCycles n p).1.storm = decide (32 ≤ n) := by
  induction n with
  | zero => exact hclear
  | succ n ih =>
    rw [failCycles_succ, failCycle_storm, Bool.eq_iff_iff, Bool.or_eq_true, storms_iff, failCycles_consecutive hrow, ih,
      decide_eq_true_iff, decide_eq_true_iff, decide_eq_false_iff_not]
    omega

/-- Of the cycles of a run only the 32nd storms: before it the count is short, after it the flag is set. -/
theorem storms_failCycles_iff (hrow : p.consecutive = 0) (hclear : p.storm = false) (n : Nat) :
    storms (failCycles n p).1 = true ↔ n = 31 := by
  rw [storms_iff, failCycles_consecutive hrow, failCycles_storm hrow hclear, decide_eq_false_iff_not]
  omega

theorem failCycles_notices (hrow : p.consecutive = 0) (hclear : p.storm = false) {n : Nat}
    (h : p.checkFailures + n ≤ Config.countTop) :
    (failCycles n p).2 =
      if 32 ≤ n then [⟨.checkStorm, .network, BitVec.ofNat 32 (p.checkFailures + 32), 0, 0⟩] else [] := by
  induction n with
  | zero => rfl
  | succ n ih =>
    have hcount : countUp (failCycles n p).1.checkFailures = p.checkFailures + (n + 1) := by
      rw [failCycles_checkFailures (by omega)]
      exact countUp_of_lt (by omega)
    rw [failCycles_succ, ih (by omega), failCycle_notices, hcount]
    simp only [storms_failCycles_iff hrow hclear]
    obtain hbefore | rfl | hafter := Nat.lt_trichotomy n 31
    · rw [if_neg (by omega), if_neg (by omega), if_neg (by omega), List.append_nil]
    · rfl
    · rw [if_pos (by omega), if_neg (by omega), if_pos (by omega), List.append_nil]

end

/-- Settles O13: by induction on the run the count after n failed cycles is min 32 n and the flag says that n has reached
32, so of the run's cycles only the 32nd storms. -/
theorem checkStormOncePerRun : Obligations.CheckStormOncePerRun := by
  unfold Obligations.CheckStormOncePerRun
  refine ⟨fun slots p => checkCycle_eq_failCycle, ?run, fun samples p => ⟨rfl, rfl, rfl⟩, fun working p => ⟨rfl, rfl⟩⟩
  case run =>
    intro n p hrow hclear hcount
    exact ⟨failCycles_consecutive hrow n, failCycles_storm hrow hclear n, failCycles_notices hrow hclear hcount⟩

end Sys2Proof.CheckStorm
end

section
/-! What a command does to the bus side, said once for every command (`exec_io`), and the laws of host memory, of the
pending lists and of the write window that follow from the moves of `BusReach`. -/

namespace Sys2Proof.BusSide

open Sys2Proof.Machine Sys2Proof.Laws

/-! ## Every command -/

/-- The ways in which a command can leave the bus side. -/
inductive IoAfter (i : Instr) (s : State) (io : Io) : Prop
  /-- A reset keeps host memory alone. -/
  | reset : io = { Io.reset with mem := s.io.mem } → IoAfter i s io
  /-- A STATUS write clears WINDOW_FAULT. -/
  | clear : io = { s.io with windowFault := false } → IoAfter i s io
  /-- An event of the timeline or of a highway hands notices at most. -/
  | moves : BusReach (winLo s) (winHi s) s.io io → IoAfter i s io
  /-- A boundary or an expiry: moves under the command's own turns, and then the host's remaining writes. -/
  | master (turns : List BusTurn) (u : Io) :
      ((∃ order, i = .frameBoundary turns order) ∨ i = .hostTickExpiry turns) →
      BusReach (winLo s) (winHi s) { s.io with turns := turns } u → io = drain u → IoAfter i s io

/-- A CONTROL write is a soft reset, or leaves the bus side alone. -/
theorem controlWrite_io (i : Instr) (s : State) (w : Word) (f : Regs → Regs) :
    IoAfter i s (if asksReset w then s.softReset else s.modRegs f).io := by
  split
  · exact .reset rfl
  · exact .moves (.refl _)

theorem exec_io {i : Instr} {s t : State} (h : exec i s = .next t) : IoAfter i s t.io := by
  cases i with
  | pinReset => cases h; exact .reset rfl
  | softReset => cases h; exact .reset rfl
  | run w => cases h; exact controlWrite_io ..
  | enableMask w => cases h; exact controlWrite_io ..
  | windowFaultClear w =>
    cases h
    split
    · exact .clear rfl
    · exact .moves (.refl _)
  | registerWrite r w => cases r <;> cases h <;> exact .moves (.refl _)
  | seatHighwayCycle up =>
    cases h
    split
    · exact .moves (handAll_reach ..)
    · exact .moves (.refl _)
  | debounceComplete slot bit => cases h; exact .moves (.refl _)
  | receiveStoreArrival slots => cases h; exact .moves (handAll_reach ..)
  | transmitStoreRead => cases h; exact .moves (handAll_reach ..)
  | cycleStart bits => cases h; exact .moves (handAll_reach ..)
  | syncTest sync => cases h; exact .moves (handAll_reach ..)
  | frameBoundary turns order =>
    cases h
    split
    · exact .master turns _ (.inl ⟨order, rfl⟩) (boundary_reaches (s.loadTurns turns) order).bus rfl
    · exact .moves (.refl _)
  | hostTickExpiry turns =>
    cases h
    split
    · exact .master turns _ (.inr rfl) (expireAndScan_reaches (s.loadTurns turns)).bus rfl
    · exact .moves (.refl _)

/-- A step idles, or executes the command at the front of the queue. -/
theorem step_cases {s t : State} (h : step s = .next t) :
    t = s ∨ ∃ i rest, s.pending = i :: rest ∧ exec i { s with pending := rest } = .next t := by
  unfold step at h
  split at h
  · cases h
    exact .inl rfl
  · next i rest hp => exact .inr ⟨i, rest, hp, h⟩

/-! ## The canonical form of host memory -/

variable {lo hi : Nat} {x y : Io}

theorem reach_wf (h : BusReach lo hi x y) (hwf : memoryWf x.mem = true) : memoryWf y.mem = true := by
  induction h with
  | refl => exact hwf
  | turn => exact takeTurn_wf hwf
  | store => exact writeMemWord_wf hwf
  | hand => simpa using hwf
  | take => simpa using hwf
  | fault => exact hwf
  | trans _ _ ih ih' => exact ih' (ih hwf)
  | _ => simpa using hwf

theorem exec_memoryWf {i : Instr} {s t : State} (hwf : memoryWf s.io.mem = true) (h : exec i s = .next t) :
    memoryWf t.io.mem = true := by
  cases exec_io h with
  | reset e => rw [e]; exact hwf
  | clear e => rw [e]; exact hwf
  | moves r => exact reach_wf r hwf
  | master turns u _ r e => rw [e]; exact drain_wf (reach_wf r hwf)

/-- Settles O24: every move of the bus side keeps the form, and every command leaves its bus side by such moves. -/
theorem memoryFormKept : Obligations.MemoryFormKept := by
  intro s t hwf h
  obtain rfl | ⟨i, rest, -, h⟩ := step_cases h
  · exact hwf
  · exact exec_memoryWf (s := { s with pending := rest }) hwf h

/-! ## The pending lists -/

theorem foldNotice_mem {n m : Notice} {ns : List Notice} (h : m ∈ foldNotice n ns) : m.code = n.code ∨ m ∈ ns := by
  induction ns with
  | nil => exact .inl (by simp_all [foldNotice])
  | cons x xs ih =>
    unfold foldNotice at h
    split at h
    · obtain rfl | h := List.mem_cons.1 h
      · exact .inl rfl
      · exact .inr (List.mem_cons_of_mem _ h)
    · obtain rfl | h := List.mem_cons.1 h
      · exact .inr List.mem_cons_self
      · exact (ih h).imp_right (List.mem_cons_of_mem _)

/-- Folding a notice in leaves no event twice. -/
theorem foldNotice_noRepeats {n : Notice} {ns : List Notice} (h : noRepeats ns) : noRepeats (foldNotice n ns) := by
  have hevents : (events ns).Nodup := h
  change (events (foldNotice n ns)).Nodup
  rw [events_foldNotice]
  split
  · exact hevents
  · next hnew => exact hevents.append (List.nodup_singleton _) (List.disjoint_singleton.2 hnew)

/-- A class whose list has lost its head, or has been left alone, is as R189 has it when it was. -/
theorem classOk_of_sublist {c : NoticeClass} (h : x.classOk c)
    (hsub : ((y.cls c).waiting).Sublist (x.cls c).waiting) : y.classOk c :=
  ⟨h.1.sublist (hsub.map _), fun n hn => h.2 n (hsub.subset hn)⟩

theorem hand_noticesOk {e : Env} {c : Code} {src : Source} {d0 d1 d2 : Word} (h : x.noticesOk) :
    (hand e c src d0 d1 d2 x).noticesOk := by
  intro k
  obtain ⟨hrepeats, hclass⟩ := h k
  unfold Io.classOk
  rw [hand_cls]
  split
  · next hk =>
    refine ⟨foldNotice_noRepeats hrepeats, fun n hn => ?_⟩
    obtain hn | hn := foldNotice_mem hn
    · rw [hn]; exact hk.2.symm
    · exact hclass n hn
  · exact ⟨hrepeats, hclass⟩

theorem setCls_noticesOk {c : NoticeClass} {z : ClassState} (h : x.noticesOk)
    (hsub : z.waiting.Sublist (x.cls c).waiting) : (x.setCls c z).noticesOk := by
  intro k
  refine classOk_of_sublist (h k) ?_
  rw [setCls_cls]
  split
  · next hk => subst hk; exact hsub
  · exact .refl _

theorem takeTurn_cls (io : Io) (c : NoticeClass) : (takeTurn io).2.cls c = io.cls c := by
  obtain ⟨e, -⟩ | ⟨t, ts, -, e⟩ := takeTurn_spec io
  · rw [e]
  · rw [e]; cases c <;> rfl

/-- What has the same classes keeps to them alike. -/
theorem noticesOk_congr (h : x.noticesOk) (hcls : ∀ c, y.cls c = x.cls c) : y.noticesOk := fun c =>
  classOk_of_sublist (h c) (by rw [hcls])

theorem reach_noticesOk (h : BusReach lo hi x y) (hok : x.noticesOk) : y.noticesOk := by
  induction h with
  | refl => exact hok
  | turn io => exact noticesOk_congr hok (takeTurn_cls io)
  | store => exact noticesOk_congr hok fun c => by cases c <;> rfl
  | hand => exact hand_noticesOk hok
  | take => exact setCls_noticesOk hok (List.tail_sublist _)
  | fault => exact noticesOk_congr hok fun c => by cases c <;> rfl
  | trans _ _ ih ih' => exact ih' (ih hok)
  | _ => exact setCls_noticesOk hok (.refl _)

theorem noticesOk_of_empty (h : ∀ c, (x.cls c).waiting = []) : x.noticesOk := fun c => by
  simp [Io.classOk, noRepeats, h c]

theorem exec_noticesOk {i : Instr} {s t : State} (hok : s.io.noticesOk) (h : exec i s = .next t) : t.io.noticesOk := by
  cases exec_io h with
  | reset e => rw [e]; exact noticesOk_of_empty fun c => by cases c <;> rfl
  | clear e => rw [e]; exact noticesOk_congr hok fun c => by cases c <;> rfl
  | moves r => exact reach_noticesOk r hok
  | master turns u _ r e =>
    have hu : u.noticesOk := reach_noticesOk r (noticesOk_congr hok fun c => by cases c <;> rfl)
    rw [e]
    exact noticesOk_congr hu fun c => by cases c <;> rfl

/-- Settles O26: a list changes only by folding a notice of its class in, by losing its head, and by a reset. -/
theorem noticeListsKept : Obligations.NoticeListsKept := by
  intro s t hok h
  obtain rfl | ⟨i, rest, -, h⟩ := step_cases h
  · exact hok
  · exact exec_noticesOk (s := { s with pending := rest }) hok h

/-! ## Bytes outside the write window -/

/-- A byte that no host write names is left by the host's writes. -/
theorem readByte_hostWrites {a : Nat} {ws : List (Word × Byte)} {m : List Host.Cell} (hwf : memoryWf m = true)
    (hws : ∀ w ∈ ws, w.1.toNat ≠ a) : readByte a (hostWrites ws m) = readByte a m := by
  induction ws generalizing m with
  | nil => rfl
  | cons w ws ih =>
    have hw : a ≠ w.1.toNat := (hws w List.mem_cons_self).symm
    exact (ih (writeByte_wf hwf) fun v hv => hws v (List.mem_cons_of_mem _ hv)).trans
      ((readByte_writeByte hwf).trans (if_neg hw))

/-- The byte at an address outside the window, and the turns still to come, which bring it no host write. -/
structure Quiet (a : Nat) (v : Byte) (io : Io) : Prop where
  wf : memoryWf io.mem = true
  turns : noHostWriteAt a io.turns
  byte : readByte a io.mem = v

theorem reach_quiet {a : Nat} {v : Byte} (h : BusReach lo hi x y) (hout : ¬ (lo ≤ a ∧ a < hi)) (hx : Quiet a v x) :
    Quiet a v y := by
  induction h with
  | refl => exact hx
  | turn io =>
    obtain ⟨e, -⟩ | ⟨t, ts, hts, e⟩ := takeTurn_spec io
    · rw [e]; exact hx
    · rw [e]
      have hno := hx.turns
      rw [hts] at hno
      exact ⟨hostWrites_wf hx.wf, fun u hu => hno u (List.mem_cons_of_mem _ hu),
        (readByte_hostWrites hx.wf (hno t List.mem_cons_self)).trans hx.byte⟩
  | store b w io hb hb' =>
    exact ⟨writeMemWord_wf hx.wf, hx.turns, (readByte_writeMemWord_other hx.wf (by omega)).trans hx.byte⟩
  | hand => exact ⟨by simpa using hx.wf, by simpa using hx.turns, by simpa using hx.byte⟩
  | take => exact ⟨by simpa using hx.wf, by simpa using hx.turns, by simpa using hx.byte⟩
  | fault => exact ⟨hx.wf, hx.turns, hx.byte⟩
  | trans _ _ ih ih' => exact ih' (ih hx)
  | _ => exact ⟨by simpa using hx.wf, by simpa using hx.turns, by simpa using hx.byte⟩

theorem drain_quiet {a : Nat} {v : Byte} (hx : Quiet a v x) : readByte a (drain x).mem = v := by
  obtain ⟨hwf, hturns, hbyte⟩ := hx
  unfold drain
  dsimp only
  generalize x.turns = ts at hturns
  generalize x.mem = m at hwf hbyte
  induction ts generalizing m with
  | nil => exact hbyte
  | cons t ts ih =>
    exact ih (fun u hu => hturns u (List.mem_cons_of_mem _ hu)) _ (hostWrites_wf hwf)
      ((readByte_hostWrites hwf (hturns t List.mem_cons_self)).trans hbyte)

/-- A byte outside the window stands through any command whose host writes leave it alone. -/
theorem exec_readByte_outside {i : Instr} {s t : State} {a : Nat} (hwf : memoryWf s.io.mem = true)
    (hturns : noHostWriteAt a s.io.turns)
    (hboundary : ∀ turns order, i = .frameBoundary turns order → noHostWriteAt a turns)
    (hexpiry : ∀ turns, i = .hostTickExpiry turns → noHostWriteAt a turns) (hout : outsideWindow s.regs a)
    (h : exec i s = .next t) : readByte a t.io.mem = readByte a s.io.mem := by
  cases exec_io h with
  | reset e => rw [e]
  | clear e => rw [e]
  | moves r => exact (reach_quiet r hout ⟨hwf, hturns, rfl⟩).byte
  | master turns u hi r e =>
    have hno : noHostWriteAt a turns := by
      obtain ⟨order, rfl⟩ | rfl := hi
      · exact hboundary turns order rfl
      · exact hexpiry turns rfl
    rw [e]
    exact drain_quiet (reach_quiet r hout ⟨hwf, hno, rfl⟩)

/-! ## The words of a record write -/

/-- The words of a record that lie inside the window, each with whether its bus turn ends in a bus error. -/
def tried : List (Nat × Word) → List BusTurn → List ((Nat × Word) × Bool)
  | [], _ => []
  | x :: xs, ts => (x, (ts.head?.map BusTurn.error).getD false) :: tried xs ts.tail

/-- The words inside the window meet the turns in order, and no error once these have run out. -/
theorem zip_turns (xs : List (Nat × Word)) (ts : List BusTurn) {n : Nat} (hn : xs.length ≤ n) :
    xs.zip (ts.map BusTurn.error ++ List.replicate n false) = tried xs ts := by
  induction xs generalizing ts n with
  | nil => rfl
  | cons x xs ih =>
    obtain ⟨n, rfl⟩ : ∃ m, n = m + 1 := ⟨n - 1, by simp at hn; omega⟩
    have hlen : xs.length ≤ n := by simpa using hn
    cases ts with
    | nil => simpa [tried, List.replicate_succ] using ih [] hlen
    | cons t ts => simpa [tried] using ih ts (Nat.le_succ_of_le hlen)

theorem takeTurn_eq (io : Io) :
    takeTurn io = ((io.turns.head?.map BusTurn.error).getD false,
      { io with turns := io.turns.tail, mem := hostWrites ((io.turns.head?.map BusTurn.writes).getD []) io.mem }) := by
  obtain ⟨mem, turns⟩ := io
  cases turns <;> rfl

/-- The words of a record inside the window of an environment. -/
def insideOf (e : Env) (ws : List (Nat × Word)) : List (Nat × Word) :=
  ws.filter fun x => decide (e.lo ≤ x.1 ∧ x.1 + 4 ≤ e.hi)

/-- The words of a record outside it. -/
def refusedOf (e : Env) (ws : List (Nat × Word)) : List (Nat × Word) :=
  ws.filter fun x => decide (x.1 < e.lo ∨ e.hi < x.1 + 4)

/-- The addresses of the words whose turn ends in a bus error. -/
def failedOf (xs : List ((Nat × Word) × Bool)) : List Nat := (xs.filter fun x => x.2).map fun x => x.1.1

/-- The words whose turn does not. -/
def madeOf (xs : List ((Nat × Word) × Bool)) : List (Nat × Word) := (xs.filter fun x => !x.2).map fun x => x.1

/-- The WRITE_FAILED of the words at some addresses. -/
def writeFailures (src : Source) (as : List Nat) : List NoticeOut :=
  as.map fun a => ⟨.writeFailed, src, BitVec.ofNat 32 a, 0, 0⟩

/-- What the words of a record write have left, from `r` on. -/
structure WordsWritten (e : Env) (src : Source) (ws : List (Nat × Word)) (r t : RecordWrite) : Prop where
  made : t.made = true ↔ r.made = true ∧ refusedOf e ws = [] ∧ failedOf (tried (insideOf e ws) r.io.turns) = []
  refused : t.refused = r.refused.or ((refusedOf e ws).head?.map Prod.fst)
  io : t.io = { handAll e (writeFailures src (failedOf (tried (insideOf e ws) r.io.turns))) r.io with
    turns := r.io.turns.drop (insideOf e ws).length, mem := t.io.mem }
  mem : (∀ u ∈ r.io.turns, u.writes = []) →
    t.io.mem = (madeOf (tried (insideOf e ws) r.io.turns)).foldl (fun m x => writeMemWord x.1 x.2 m) r.io.mem

theorem tried_append (xs ys : List (Nat × Word)) (ts : List BusTurn) :
    tried (xs ++ ys) ts = tried xs ts ++ tried ys (ts.drop xs.length) := by
  induction xs generalizing ts with
  | nil => rfl
  | cons x xs ih => simp [tried, ih]

theorem handAll_append (e : Env) (ns ns' : List NoticeOut) (io : Io) :
    handAll e (ns ++ ns') io = handAll e ns' (handAll e ns io) := List.foldl_append ..

/-- The words of a record written one part after another. -/
theorem WordsWritten.append {e : Env} {src : Source} {ws vs : List (Nat × Word)} {r s t : RecordWrite}
    (h : WordsWritten e src ws r s) (g : WordsWritten e src vs s t) : WordsWritten e src (ws ++ vs) r t := by
  have hturns : s.io.turns = r.io.turns.drop (insideOf e ws).length := by rw [h.io]
  have htried : tried (insideOf e (ws ++ vs)) r.io.turns =
      tried (insideOf e ws) r.io.turns ++ tried (insideOf e vs) s.io.turns := by
    rw [insideOf, List.filter_append, tried_append, hturns, insideOf, insideOf]
  have hfailed : failedOf (tried (insideOf e (ws ++ vs)) r.io.turns) =
      failedOf (tried (insideOf e ws) r.io.turns) ++ failedOf (tried (insideOf e vs) s.io.turns) := by
    simp [htried, failedOf]
  have hrefused : refusedOf e (ws ++ vs) = refusedOf e ws ++ refusedOf e vs := List.filter_append ..
  refine ⟨?made, ?refused, ?io, fun hquiet => ?mem⟩
  case made => rw [g.made, h.made, hfailed, hrefused, List.append_eq_nil_iff, List.append_eq_nil_iff]; tauto
  case refused => simp [g.refused, h.refused, hrefused, Option.or_assoc, List.head?_append, Option.map_or]
  case io =>
    rw [hfailed, writeFailures, List.map_append, handAll_append]
    refine g.io.trans ?_
    generalize t.io.mem = m
    rw [hturns, List.drop_drop]
    have hlen : (insideOf e (ws ++ vs)).length = (insideOf e ws).length + (insideOf e vs).length := by
      simp [insideOf]
    rw [hlen, h.io]
    simp only [handAll_onto]
    rfl
  case mem =>
    have hquiet' : ∀ u ∈ s.io.turns, u.writes = [] := fun u hu =>
      hquiet u (List.mem_of_mem_drop (hturns ▸ hu))
    rw [g.mem hquiet', h.mem hquiet, htried, ← List.foldl_append]
    simp [madeOf]

theorem wordWritten (e : Env) (src : Source) (x : Nat × Word) (r : RecordWrite) :
    WordsWritten e src [x] r (writeRecordWord e src r x) := by
  have hturn := takeTurn_eq r.io
  have hquiet (h : ∀ u ∈ r.io.turns, u.writes = []) : (r.io.turns.head?.map BusTurn.writes).getD [] = [] := by
    cases hts : r.io.turns with
    | nil => rfl
    | cons t ts => exact h t (hts ▸ List.mem_cons_self)
  have hout : refusedOf e [x] = if inWindow e x.1 = true then [] else [x] := by
    by_cases hin : e.lo ≤ x.1 ∧ x.1 + 4 ≤ e.hi
    · simp [refusedOf, inWindow, hin]
    · have : x.1 < e.lo ∨ e.hi < x.1 + 4 := by omega
      simp [refusedOf, inWindow, hin, this]
  have hin : insideOf e [x] = if inWindow e x.1 = true then [x] else [] := by
    by_cases hin : e.lo ≤ x.1 ∧ x.1 + 4 ≤ e.hi <;> simp [insideOf, inWindow, hin]
  obtain ⟨hw, he⟩ | ⟨hw, hx, he⟩ | ⟨hw, hx, he⟩ := writeWord_spec e x.1 x.2 r.io
  · rw [hw, if_neg (by decide)] at hout hin
    constructor <;> simp [writeRecordWord, he, hout, hin, tried, failedOf, writeFailures, madeOf, handAll]
  · rw [hw, if_pos rfl] at hout hin
    have herr : (r.io.turns.head?.map BusTurn.error).getD false = true := by rw [hturn] at hx; exact hx
    constructor
    · simp [writeRecordWord, he, hout, hin, tried, failedOf, herr]
    · simp [writeRecordWord, he, hout]
    · simp [writeRecordWord, he, hin, tried, failedOf, herr, writeFailures, handAll, hturn, hand_onto]
    · intro h
      simp [writeRecordWord, he, hin, tried, madeOf, herr, hturn, hquiet h, hostWrites]
  · rw [hw, if_pos rfl] at hout hin
    have herr : (r.io.turns.head?.map BusTurn.error).getD false = false := by rw [hturn] at hx; exact hx
    constructor
    · simp [writeRecordWord, he, hout, hin, tried, failedOf, herr]
    · simp [writeRecordWord, he, hout]
    · simp [writeRecordWord, he, hin, tried, failedOf, herr, writeFailures, handAll, hturn]
    · intro h
      simp [writeRecordWord, he, hin, tried, madeOf, herr, hturn, hquiet h, hostWrites]

theorem wordsWritten (e : Env) (src : Source) (ws : List (Nat × Word)) (r : RecordWrite) :
    WordsWritten e src ws r (ws.foldl (writeRecordWord e src) r) := by
  induction ws generalizing r with
  | nil => exact ⟨by simp [refusedOf, insideOf, tried, failedOf], by simp [refusedOf], rfl, fun _ => rfl⟩
  | cons x ws ih => exact (wordWritten e src x r).append (ih _)

/-- The WINDOW_REFUSED of a record write, when a word of it is refused. -/
def windowRefusal (src : Source) (refused : List (Nat × Word)) : List NoticeOut :=
  (refused.head?.map fun x => ⟨.windowRefused, src, BitVec.ofNat 32 x.1, 0, 0⟩).toList

/-- A record write: whether it is made, what it hands, and what it puts in memory when no host write comes between. -/
theorem writeRecord_spec (e : Env) (src : Source) (ws : List (Nat × Word)) (io : Io) :
    let xs := tried (insideOf e ws) io.turns
    let r := writeRecord e src ws io
    (r.1 = true ↔ refusedOf e ws = [] ∧ failedOf xs = []) ∧
    r.2 = { handAll e (writeFailures src (failedOf xs) ++ windowRefusal src (refusedOf e ws)) io with
      turns := io.turns.drop (insideOf e ws).length, mem := r.2.mem } ∧
    ((∀ t ∈ io.turns, t.writes = []) → r.2.mem = (madeOf xs).foldl (fun m x => writeMemWord x.1 x.2 m) io.mem) := by
  intro xs r
  have hwords := wordsWritten e src ws { made := true, refused := none, io := io }
  have hr : r = writeRecord e src ws io := rfl
  unfold writeRecord at hr
  generalize ws.foldl (writeRecordWord e src) { made := true, refused := none, io := io } = t at hwords hr
  have hmem : r.2.mem = t.io.mem := by
    rw [hr]
    dsimp only
    split <;> simp
  refine ⟨?made, ?io, fun hquiet => hmem.trans (hwords.mem hquiet)⟩
  case made => rw [hr]; simpa using hwords.made
  case io =>
    rw [hmem, hr]
    dsimp only
    have hrefused := hwords.refused
    rw [Option.none_or] at hrefused
    rw [handAll_append]
    rw [hrefused]
    cases hhead : (refusedOf e ws).head? with
    | none => simpa [windowRefusal, hhead, handAll] using hwords.io
    | some x =>
      simp only [Option.map_some, windowRefusal, hhead, Option.toList_some, handAll, List.foldl_cons, List.foldl_nil]
      rw [hwords.io, hand_onto]
      rfl

/-- Settles O36: outside the window by the moves of the bus side, and a record word by word. -/
theorem nothingWrittenOutsideWindow : Obligations.NothingWrittenOutsideWindow := by
  refine ⟨fun i s t a => exec_readByte_outside, fun e src ws io => ?_⟩
  dsimp only
  rw [zip_turns _ _ (Nat.le_refl _)]
  exact writeRecord_spec e src ws io

/-! ## Notices of one class -/

/-- Two bus sides that differ in the pending list of one class alone. -/
def WaitsOf (c : NoticeClass) (x y : Io) : Prop := ∃ ns, y = x.setCls c { x.cls c with waiting := ns }

theorem WaitsOf.refl (c : NoticeClass) (x : Io) : WaitsOf c x x := ⟨(x.cls c).waiting, by cases c <;> rfl⟩

theorem WaitsOf.trans {c : NoticeClass} {z : Io} (h : WaitsOf c x y) (g : WaitsOf c y z) : WaitsOf c x z := by
  obtain ⟨ns, rfl⟩ := h
  obtain ⟨ms, rfl⟩ := g
  exact ⟨ms, by cases c <;> rfl⟩

/-- The class whose list differs tells the two apart, and it shows what it showed. -/
theorem WaitsOf.eq {c : NoticeClass} (h : WaitsOf c x y) :
    y = x.setCls c (y.cls c) ∧ (y.cls c).shown = (x.cls c).shown := by
  obtain ⟨ns, rfl⟩ := h
  cases c <;> exact ⟨rfl, rfl⟩

theorem WaitsOf.cls_ne {c d : NoticeClass} (h : WaitsOf c x y) (hd : d ≠ c) : y.cls d = x.cls d := by
  obtain ⟨ns, rfl⟩ := h
  rw [setCls_cls, if_neg hd.symm]

theorem hand_waitsOf (e : Env) (c : Code) (src : Source) (d0 d1 d2 : Word) (x : Io) :
    WaitsOf c.cls x (hand e c src d0 d1 d2 x) := by
  unfold hand
  split
  · exact ⟨_, rfl⟩
  · exact .refl ..

theorem handAll_waitsOf {c : NoticeClass} (e : Env) {ns : List NoticeOut} (h : ∀ n ∈ ns, n.code.cls = c) (x : Io) :
    WaitsOf c x (handAll e ns x) := by
  induction ns generalizing x with
  | nil => exact .refl ..
  | cons n ns ih =>
    obtain ⟨hn, hns⟩ := List.forall_mem_cons.1 h
    exact (hn ▸ hand_waitsOf e n.code n.source n.detail0 n.detail1 n.detail2 x).trans (ih hns _)

end Sys2Proof.BusSide
end

section
/-! The register commands and the register views (10.1, 10.2, 11.4): what each command leaves, and the words that a host read
returns, bit by bit.  A packed word is read by `getLsbD_pack`. -/

namespace Sys2Proof.Registers

open Sys2Proof.Machine Sys2Proof.Laws Sys2Proof.BusSide

/-! ## The queue -/

/-- Settles O1: by the definition of a step. -/
theorem stepTakesFrontCommand : Obligations.StepTakesFrontCommand := fun _ _ _ => rfl

/-- Settles O2: each command's guard fails. -/
theorem outOfTurnEventsChangeNothing : Obligations.OutOfTurnEventsChangeNothing := by
  refine ⟨fun s h => ?idle, fun up s h => ?cycle, fun turns order s h => ?boundary, fun turns s h => ?expiry,
    fun bits s h => ?start, fun sync s h => ?test⟩
  case idle => simp [step, h]
  case cycle => simp [exec, execSeatHighwayCycle, h]
  case boundary => simp [exec, execFrameBoundary, Nat.ne_of_lt h]
  case expiry => simp [exec, execHostTickExpiry, h]
  case start => simp [exec, execCycleStart, seeCycleStart, h, State.setNet, handAll]
  case test =>
    have hno : ¬ (s.nh.lock = .locked ∧ s.nh.current.lead = false) := by
      rintro ⟨hlock, hlead⟩
      obtain h | h := h
      · exact h hlock
      · simp [hlead] at h
    simp [exec, execSyncTest, testSync, hno, State.setNet, handAll]

/-! ## Packed words -/

theorem getLsbD_shiftLeft_ofNat (p v i : Nat) :
    (BitVec.ofNat 32 v <<< p).getLsbD i = (decide (i < 32 ∧ p ≤ i) && v.testBit (i - p)) := by
  rw [BitVec.getLsbD_shiftLeft, BitVec.getLsbD_ofNat]
  by_cases hi : i < 32
  · by_cases hp : p ≤ i
    · simp [hi, hp, show i - p < 32 by omega, Nat.not_lt.2 hp]
    · simp [hp, Nat.not_le.1 hp]
  · simp [hi]

theorem getLsbD_foldl_pack (fs : List (Nat × Nat)) (w : Word) (i : Nat) :
    (fs.foldl (fun w f => w ||| (BitVec.ofNat 32 f.2 <<< f.1)) w).getLsbD i =
      (w.getLsbD i || fs.any fun f => decide (i < 32 ∧ f.1 ≤ i) && f.2.testBit (i - f.1)) := by
  induction fs generalizing w with
  | nil => simp
  | cons f fs ih => rw [List.foldl_cons, ih, BitVec.getLsbD_or, getLsbD_shiftLeft_ofNat, List.any_cons, Bool.or_assoc]

/-- A bit of a packed word is set when a field that has begun there has it set. -/
theorem getLsbD_pack (fs : List (Nat × Nat)) (i : Nat) :
    (pack fs).getLsbD i = fs.any fun f => decide (i < 32 ∧ f.1 ≤ i) && f.2.testBit (i - f.1) := by
  rw [pack, getLsbD_foldl_pack]
  simp

@[simp] theorem testBit_flagNat (b : Bool) (n : Nat) : (flagNat b).testBit n = (b && decide (n = 0)) := by
  cases b <;> cases n <;> simp [flagNat, Nat.testBit_succ]

/-! ## The posted flags and the interrupt line -/

theorem flags_testBit : ∀ a b c d e f : Bool, ∀ i : Fin 6,
    (flagNat a * 2 ^ 0 + (flagNat b * 2 ^ 1 + (flagNat c * 2 ^ 2 + (flagNat d * 2 ^ 3 +
      (flagNat e * 2 ^ 4 + (flagNat f * 2 ^ 5 + 0)))))).testBit i = #v[a, b, c, d, e, f][i] := by decide

theorem flagNat_le (b : Bool) : flagNat b ≤ 1 := by cases b <;> decide

/-- The posted flags as a number: bit n is that of class n. -/
theorem testBit_postedBits (io : Io) (x : NoticeClass) : io.postedBits.testBit x.number = io.posted x := by
  have h := flags_testBit (io.posted .seat) (io.posted .stream) (io.posted .prompt) (io.posted .highway) (io.posted .fault)
    (io.posted .supervision)
  cases x
  · exact h 0
  · exact h 1
  · exact h 2
  · exact h 3
  · exact h 4
  · exact h 5

theorem postedBits_lt (io : Io) : io.postedBits < 64 := by
  have h (x : NoticeClass) := flagNat_le (io.posted x)
  have h0 := h .seat
  have h1 := h .stream
  have h2 := h .prompt
  have h3 := h .highway
  have h4 := h .fault
  have h5 := h .supervision
  simp only [Io.postedBits, classes, List.map_cons, List.map_nil, List.sum_cons, List.sum_nil, NoticeClass.number]
  omega

theorem testBit_postedBits_of_le (io : Io) {n : Nat} (h : 6 ≤ n) : io.postedBits.testBit n = false :=
  Nat.testBit_lt_two_pow (Nat.lt_of_lt_of_le (postedBits_lt io) (Nat.pow_le_pow_right Nat.two_pos h))

theorem testBit_lock_of_le (x : Lock) {n : Nat} (h : 2 ≤ n) : x.encode.testBit n = false :=
  Nat.testBit_lt_two_pow (Nat.lt_of_lt_of_le (by cases x <;> decide : x.encode < 2 ^ 2)
    (Nat.pow_le_pow_right Nat.two_pos h))

theorem interrupt_iff (s : State) : s.interrupt = true ↔
    ∃ x : NoticeClass, s.io.posted x = true ∧ s.regs.enableMask.getLsbD x.number = true := by
  simp only [State.interrupt, List.any_eq_true, Bool.and_eq_true]
  exact ⟨fun ⟨x, _, h⟩ => ⟨x, h⟩, fun ⟨x, h⟩ => ⟨x, by cases x <;> simp [classes], h⟩⟩

/-! ## STATUS and CONTROL as read -/

theorem number_le (x : NoticeClass) : x.number ≤ 5 := by cases x <;> decide

/-- A flag at a position shows there and nowhere else. -/
theorem flag_at (p i : Nat) (b : Bool) : (decide (p ≤ i) && (b && decide (i - p = 0))) = (decide (i = p) && b) := by
  by_cases h : i = p
  · simp [h]
  · have : ¬ (p ≤ i ∧ i - p = 0) := by omega
    cases b <;> simp_all

/-- A bit of STATUS, by the field it lies in. -/
theorem getLsbD_status (s : State) (i : Nat) (hi : i < 32) : s.status.getLsbD i =
    (decide (i = 0) && s.running || decide (i = 1) && s.tick.standalone || decide (i = 2) && s.header.layoutBad ||
      decide (i = 3) && s.io.windowFault || decide (8 ≤ i) && s.io.postedBits.testBit (i - 8) ||
      decide (16 ≤ i) && s.nh.lock.encode.testBit (i - 16)) := by
  rw [State.status, getLsbD_pack]
  simp only [List.any_cons, List.any_nil, hi, true_and, testBit_flagNat, flag_at, Bool.or_false, Bool.or_assoc]

theorem getLsbD_control (s : State) (i : Nat) (hi : i < 32) : s.control.getLsbD i =
    (decide (i = 0) && s.regs.run || decide (8 ≤ i) && s.regs.enableMask.getLsbD (i - 8)) := by
  rw [State.control, getLsbD_pack]
  simp only [List.any_cons, List.any_nil, hi, true_and, testBit_flagNat, flag_at, Bool.or_false, BitVec.testBit_toNat]

/-- A part of a word is 0 when each of its bits is. -/
theorem extractLsb'_eq_zero {w : Word} {lo len : Nat} (h : ∀ i, i < len → w.getLsbD (lo + i) = false) :
    w.extractLsb' lo len = 0 := by
  apply BitVec.eq_of_getLsbD_eq
  intro i hi
  simp [hi, h i hi]

/-- Settles O6: each part of STATUS and CONTROL by the bits of the packed word. -/
theorem interruptFollowsMask : Obligations.InterruptFollowsMask := by
  unfold Obligations.InterruptFollowsMask
  refine ⟨interrupt_iff, fun w s hw => ?mask, fun s x => ?status, fun s => ?control⟩
  case mask =>
    have hno : asksReset w = false := hw
    refine ⟨s.modRegs fun r => { r with enableMask := maskOf w }, by simp [exec, execEnableMask, hno], ?_⟩
    rw [interrupt_iff]
    refine exists_congr fun x => and_congr_right fun _ => ?_
    have hx := number_le x
    simp [maskOf, show x.number < 6 by omega]
  case status =>
    have bit := getLsbD_status s
    have hx := number_le x
    refine ⟨?posted, ?run, ?alone, ?bad, ?fault, ?lock, ?low, ?mid, ?high⟩
    case posted =>
      rw [State.readRegister, bit _ (by omega), Nat.add_sub_cancel_left, testBit_postedBits]
      simp [show ¬ 16 ≤ 8 + x.number by omega, show 8 + x.number ≠ 1 by omega, show 8 + x.number ≠ 2 by omega,
        show 8 + x.number ≠ 3 by omega]
    case run => exact (bit 0 (by omega)).trans (by simp)
    case alone => exact (bit 1 (by omega)).trans (by simp)
    case bad => exact (bit 2 (by omega)).trans (by simp)
    case fault => exact (bit 3 (by omega)).trans (by simp)
    case lock =>
      apply BitVec.eq_of_getLsbD_eq
      intro i hi
      have h8 : s.io.postedBits.testBit (16 + i - 8) = false := testBit_postedBits_of_le _ (by omega)
      rw [BitVec.getLsbD_extractLsb', State.readRegister, bit _ (by omega), h8]
      have hcases : i = 0 ∨ i = 1 := by omega
      obtain rfl | rfl := hcases <;> cases s.nh.lock <;> rfl
    case low =>
      refine extractLsb'_eq_zero fun i hi => ?_
      rw [State.readRegister, bit _ (by omega)]
      simp [show 4 + i ≠ 1 by omega, show 4 + i ≠ 2 by omega, show 4 + i ≠ 3 by omega, show ¬ 8 ≤ 4 + i by omega,
        show ¬ 16 ≤ 4 + i by omega]
    case mid =>
      refine extractLsb'_eq_zero fun i hi => ?_
      rw [State.readRegister, bit _ (by omega), testBit_postedBits_of_le _ (by omega)]
      simp [show 14 + i ≠ 1 by omega, show 14 + i ≠ 2 by omega, show 14 + i ≠ 3 by omega, show ¬ 16 ≤ 14 + i by omega]
    case high =>
      refine extractLsb'_eq_zero fun i hi => ?_
      rw [State.readRegister, bit _ (by omega), testBit_postedBits_of_le _ (by omega), testBit_lock_of_le _ (by omega)]
      simp [show 18 + i ≠ 1 by omega, show 18 + i ≠ 2 by omega, show 18 + i ≠ 3 by omega]
  case control =>
    have bit := getLsbD_control s
    refine ⟨(bit 0 (by omega)).trans (by simp), ?mask, ?low, ?high, rfl, rfl, rfl, rfl⟩
    case mask =>
      apply BitVec.eq_of_getLsbD_eq
      intro i hi
      rw [BitVec.getLsbD_extractLsb', State.readRegister, bit _ (by omega)]
      simp [hi]
    case low =>
      refine extractLsb'_eq_zero fun i hi => ?_
      rw [State.readRegister, bit _ (by omega)]
      simp [show ¬ 8 ≤ 1 + i by omega]
    case high =>
      refine extractLsb'_eq_zero fun i hi => ?_
      rw [State.readRegister, bit _ (by omega), BitVec.getLsbD_of_ge _ _ (by omega)]
      simp

/-! ## Resets -/

theorem status_reset {s : State} (hrun : s.running = false) (halone : s.tick.standalone = false)
    (hbad : s.header.layoutBad = false) (hfault : s.io.windowFault = false) (hposted : ∀ x, s.io.posted x = false)
    (hlock : s.nh.lock = .down) : s.status = 0 := by
  have hbits : s.io.postedBits = 0 := by simp [Io.postedBits, classes, hposted, flagNat]
  simp [State.status, hrun, halone, hbad, hfault, hbits, hlock, Lock.encode, flagNat, pack]

theorem control_reset {s : State} (h : s.regs = .reset) : s.control = 0 := by
  simp [State.control, h, Regs.reset, flagNat, pack]

theorem interrupt_of_unposted {s : State} (h : ∀ x, s.io.posted x = false) : s.interrupt = false := by
  simp [State.interrupt, h]

theorem reset_posted (m : List Host.Cell) (x : NoticeClass) : Io.posted { Io.reset with mem := m } x = false := by
  cases x <;> rfl

/-- Settles O3: by the reset values, with every class unposted. -/
theorem pinResetCompletes : Obligations.PinResetCompletes := by
  intro s
  refine ⟨s.pinReset, rfl, rfl, fun r => ?_, interrupt_of_unposted (reset_posted _)⟩
  cases r with
  | control => exact control_reset rfl
  | status => exact status_reset rfl rfl rfl rfl (reset_posted _) rfl
  | _ => rfl

/-- Settles O4: by the reset values, with every class unposted. -/
theorem softResetCompletes : Obligations.SoftResetCompletes := by
  intro s
  have hstatus : s.softReset.status = 0 := status_reset rfl rfl rfl rfl (reset_posted _) rfl
  refine ⟨s.softReset, rfl, ?_, rfl, rfl, rfl, rfl, hstatus, rfl, interrupt_of_unposted (reset_posted _)⟩
  simp only [State.softReset, State.pinReset]

/-! ## Register writes -/

/-- Settles O5: by the SOFT_RESET bit of the word. -/
theorem controlWriteCompletes : Obligations.ControlWriteCompletes := by
  refine fun w s => ⟨fun h => ?_, fun h => ?_⟩
  · have hno : asksReset w = false := h
    simp [exec, execRun, execEnableMask, hno, State.modRegs, maskOf]
  · have hasks : asksReset w = true := h
    simp [exec, execRun, execEnableMask, execSoftReset, hasks]

/-- Settles O7: by the WINDOW_FAULT bit of the word. -/
theorem windowFaultClearCompletes : Obligations.WindowFaultClearCompletes := by
  refine fun w s => ⟨fun h => ⟨_, congrArg Host.Outcome.next (if_pos h), rfl, ?_⟩, fun h => ?_⟩
  · exact (getLsbD_status _ 3 (by omega)).trans (by simp)
  · exact congrArg Host.Outcome.next (if_neg (by rw [h]; decide))

theorem getLsbD_alignBase (w : Word) (i : Nat) : (alignBase w).getLsbD i = (decide (14 ≤ i) && w.getLsbD i) := by
  by_cases hi : i < 32
  · have hmask : ∀ j : Fin 32, (0xFFFFC000#32).getLsbD j = decide (14 ≤ j.val) := by decide
    rw [alignBase, BitVec.getLsbD_and, hmask ⟨i, hi⟩, Bool.and_comm]
  · simp [BitVec.getLsbD_of_ge _ i (by omega : 32 ≤ i)]

theorem getLsbD_alignWindow (w : Word) (i : Nat) : (alignWindow w).getLsbD i = (decide (2 ≤ i) && w.getLsbD i) := by
  by_cases hi : i < 32
  · have hmask : ∀ j : Fin 32, (0xFFFFFFFC#32).getLsbD j = decide (2 ≤ j.val) := by decide
    rw [alignWindow, BitVec.getLsbD_and, hmask ⟨i, hi⟩, Bool.and_comm]
  · simp [BitVec.getLsbD_of_ge _ i (by omega : 32 ≤ i)]

/-- Settles O8: by the bits of the aligned word. -/
theorem registerWriteCompletes : Obligations.RegisterWriteCompletes := fun w _ =>
  ⟨⟨_, rfl, rfl, getLsbD_alignBase w⟩, ⟨_, rfl, rfl, getLsbD_alignWindow w⟩, ⟨_, rfl, rfl, getLsbD_alignWindow w⟩, rfl⟩

end Sys2Proof.Registers
end

section
/-! The commands of the two highways (9.1, 9.4 to 9.7): the slots of a cycle, debouncing, the check, the lock machine and the
elastic stores, and what each command leaves of the rest of the part. -/

namespace Sys2Proof.Highways

open Sys2Proof.Machine Sys2Proof.Laws Sys2Proof.BusSide Sys2Proof.Registers

/-! ## Slots and samples (R155, R161, R165) -/

theorem toInt_ofInt_sample {x : Int} (hlo : -32768 ≤ x) (hhi : x ≤ 32767) : (BitVec.ofInt 16 x).toInt = x :=
  BitVec.toInt_ofInt_eq_self (by decide) (by simpa using hlo) (by simpa using Int.lt_add_one_of_le hhi)

/-- The sample part of a slot stands where it is read from. -/
theorem slotBits_slotWord (narrow : Bool) (h : Half) : slotBits narrow (slotWord narrow h) = h := by
  refine BitVec.eq_of_getLsbD_eq fun i hi => ?_
  cases narrow
  · have happ := BitVec.getLsbD_append (x := h) (y := (0 : BitVec 16)) (i := 16 + i)
    simpa [slotBits, slotWord, hi] using happ
  · simp [slotBits, slotWord, hi, show i < 32 by omega]

theorem sentSlots_voice (n : NetSettings) (samples : Vector Sample 32) (k : SlotNo) :
    (sentSlots n samples)[k.val] = slotWord n.narrow (BitVec.ofInt 16 samples[k]) := by
  have hget := tabulate_get (fun k : Fin 33 =>
    if h : k.val < 32 then slotWord n.narrow (BitVec.ofInt 16 samples[k.val])
    else if n.check then slotWord n.narrow (checkOf samples) else 0) ⟨k.val, by omega⟩
  exact hget.trans (dif_pos k.isLt)

theorem sentSlots_check (n : NetSettings) (samples : Vector Sample 32) :
    (sentSlots n samples)[32] = if n.check then slotWord n.narrow (checkOf samples) else 0 := by
  have hget := tabulate_get (fun k : Fin 33 =>
    if h : k.val < 32 then slotWord n.narrow (BitVec.ofInt 16 samples[k.val])
    else if n.check then slotWord n.narrow (checkOf samples) else 0) ⟨32, by omega⟩
  exact hget.trans (dif_neg (by decide))

/-- Settles O14. -/
theorem sentCycleIsReceived : Obligations.SentCycleIsReceived := by
  unfold Obligations.SentCycleIsReceived
  intro n samples hrange
  refine ⟨Vector.ext fun k hk => ?voice, fun hcheck => ?check, fun hcheck => ?none⟩
  case voice =>
    have hget := tabulate_get (fun k : SlotNo => (slotBits n.narrow (sentSlots n samples)[k.val]).toInt) ⟨k, hk⟩
    obtain ⟨hlo, hhi⟩ := hrange ⟨k, hk⟩
    have hvoice := sentSlots_voice n samples ⟨k, hk⟩
    calc (voiceSamples n.narrow (sentSlots n samples))[k]
      _ = (slotBits n.narrow (sentSlots n samples)[k]).toInt := hget
      _ = (BitVec.ofInt 16 samples[k]).toInt := by rw [hvoice, slotBits_slotWord]; rfl
      _ = samples[k] := toInt_ofInt_sample hlo hhi
  case check => rw [sentSlots_check, if_pos hcheck, slotBits_slotWord]
  case none => rw [sentSlots_check, if_neg (by simp [hcheck])]

theorem getLsbD_downstreamWord (ear : Sample) (whisper onAir : Bool) (i : Nat) (hi : i < 32) :
    (downstreamWord ear whisper onAir).getLsbD i =
      if 16 ≤ i then (BitVec.ofInt 16 ear).getLsbD (i - 16)
      else (decide (i = 1) && whisper) || (decide (i = 0) && onAir) := by
  rw [downstreamWord, BitVec.getLsbD_or, BitVec.getLsbD_append, getLsbD_pack]
  by_cases h16 : 16 ≤ i
  · simp [h16, hi, flag_at, show i ≠ 0 by omega, show i ≠ 1 by omega, Nat.not_lt.2 h16]
  · simp [h16, hi, flag_at, Nat.lt_of_not_le h16]
    exact congrArg _ (Bool.and_comm ..)

/-- Settles O10. -/
theorem downstreamSlotWord : Obligations.DownstreamSlotWord := by
  unfold Obligations.DownstreamSlotWord
  intro ear whisper onAir hlo hhi
  refine ⟨?sample, ?whisper, ?onAir, fun i h2 h16 => ?rest⟩
  case sample =>
    have hslot : (downstreamWord ear whisper onAir).extractLsb' 16 16 = BitVec.ofInt 16 ear :=
      BitVec.eq_of_getLsbD_eq fun i hi => by
        rw [BitVec.getLsbD_extractLsb', getLsbD_downstreamWord _ _ _ _ (by omega)]
        simp [hi]
    rw [hslot, toInt_ofInt_sample hlo hhi]
  case whisper => rw [getLsbD_downstreamWord _ _ _ _ (by decide)]; simp
  case onAir => rw [getLsbD_downstreamWord _ _ _ _ (by decide)]; simp
  case rest => rw [getLsbD_downstreamWord _ _ _ _ (by omega)]; simp [show i ≠ 0 by omega, show i ≠ 1 by omega]; omega

/-! ## Debouncing (R159) -/

theorem settled_of_lt {d : Debounce} (h : d.count < 16) : d.settled = d := if_neg (by omega)

theorem settled_of_le {d : Debounce} (h : 16 ≤ d.count) : d.settled = ⟨!d.value, 0⟩ := if_pos h

theorem sampled_same (v : Bool) {n : Nat} (h : n < 16) : Debounce.sampled v ⟨v, n⟩ = ⟨v, 0⟩ := by
  rw [Debounce.sampled, settled_of_lt h]
  exact if_pos rfl

theorem sampled_other (v : Bool) {n : Nat} (h : n < 16) : Debounce.sampled (!v) ⟨v, n⟩ = ⟨v, n + 1⟩ := by
  rw [Debounce.sampled, settled_of_lt h]
  exact if_neg (by simp)

/-- Samples of the other value are counted up to the 16th. -/
theorem foldl_sampled_other (v : Bool) : ∀ n, n ≤ 16 →
    (List.replicate n (!v)).foldl (fun d b => d.sampled b) ⟨v, 0⟩ = (⟨v, n⟩ : Debounce) := by
  intro n
  induction n with
  | zero => exact fun _ => rfl
  | succ n ih =>
    intro hn
    rw [List.replicate_succ', List.foldl_append, ih (by omega)]
    exact sampled_other v (by omega)

theorem modBit_settled (x : SlotStatus) (bit : StatusBit) :
    x.modBit bit Debounce.settled = x.modBit bit fun d => if 16 ≤ d.count then ⟨!d.value, 0⟩ else d := rfl

/-- Settles O11. -/
theorem debounceCompleteCompletes : Obligations.DebounceCompleteCompletes := by
  unfold Obligations.DebounceCompleteCompletes
  refine ⟨fun slot bit s => ⟨_, rfl, rfl, fun k hk => ?other, ?same⟩, fun v n hn => ?count, fun v => ?taken⟩
  case other =>
    exact Vector.getElem_set_ne slot.isLt k.isLt fun h => hk (Fin.ext h.symm)
  case same => exact Vector.getElem_set_self slot.isLt
  case count => exact ⟨foldl_sampled_other v n hn.le, settled_of_lt hn, sampled_same v hn⟩
  case taken =>
    rw [foldl_sampled_other v 16 le_rfl]
    exact settled_of_le le_rfl

/-! ## Sync (R161, R164) -/

/-- An active sync bit. -/
theorem getD_eq_true_iff (sync : List Bool) (i : Nat) : sync.getD i false = true ↔ sync[i]? = some true := by
  rw [List.getD_eq_getElem?_getD]
  cases sync[i]? <;> simp

/-- An inactive sync bit. -/
theorem getD_eq_false_iff {sync : List Bool} {i : Nat} (h : i < sync.length) :
    sync.getD i false = false ↔ sync[i]? = some false := by
  simp [h]

section
variable {n : NetSettings} {sync : List Bool}

theorem goodSync_iff : goodSync n sync = true ↔ startShown n sync = true ∧ startElsewhere n sync = false := by
  simp [goodSync]

theorem startShown_pulse (h : n.span = false) :
    startShown n sync = true ↔ sync[n.divider.len - 1]? = some true := by
  simp only [startShown, h, Bool.false_eq_true, if_false, getD_eq_true_iff]

theorem startElsewhere_pulse (h : n.span = false) :
    startElsewhere n sync = false ↔ ∀ i, i < n.divider.len - 1 → sync[i]? ≠ some true := by
  simp only [startElsewhere, h, Bool.false_eq_true, if_false, List.any_eq_false, List.mem_range, getD_eq_true_iff, ne_eq]

theorem startShown_span (h : n.span = true) : startShown n sync = true ↔
    sync[n.divider.len]? = some true ∧ sync.getD (n.divider.len - 1) false = false := by
  simp only [startShown, h, if_true, Bool.and_eq_true, Bool.not_eq_true', getD_eq_true_iff]

theorem startElsewhere_span (h : n.span = true) : startElsewhere n sync = false ↔
    ∀ i, i < n.divider.len - 1 → sync[i + 1]? = some true → sync[i]? = some true := by
  simp only [startElsewhere, h, if_true, List.any_eq_false, List.mem_range, Bool.and_eq_true, Bool.not_eq_true',
    ← getD_eq_true_iff, not_and, Bool.not_eq_false]

/-- PULSE: the last bit of the cycle is active and no other (R164). -/
theorem goodSync_pulse (h : n.span = false) (hlen : 1 ≤ n.divider.len) : goodSync n sync = true ↔
    ∀ i, i < n.divider.len → (sync[i]? = some true ↔ i = n.divider.len - 1) := by
  rw [goodSync_iff, startShown_pulse h, startElsewhere_pulse h]
  constructor
  · rintro ⟨hlast, hothers⟩ i hi
    constructor
    · exact fun hactive => by_contra fun hne => hothers i (by omega) hactive
    · rintro rfl
      exact hlast
  · exact fun hall => ⟨(hall _ (by omega)).2 rfl, fun i hi hactive => hi.ne ((hall i (by omega)).1 hactive)⟩

/-- SPAN: a rise at the first bit of the next cycle, and none within this one (R164). -/
theorem goodSync_span (h : n.span = true) (hsync : sync.length = n.divider.len + 1) :
    goodSync n sync = true ↔ sync[n.divider.len]? = some true ∧ sync[n.divider.len - 1]? = some false ∧
      ∀ i, 0 < i → i < n.divider.len → sync[i]? = some true → sync[i - 1]? = some true := by
  rw [goodSync_iff, startShown_span h, startElsewhere_span h, getD_eq_false_iff (by omega), and_assoc]
  refine and_congr_right fun _ => and_congr_right fun _ => ⟨fun hall i hpos hi => ?_, fun hall i hi => ?_⟩
  · have hrise := hall (i - 1) (by omega)
    rwa [Nat.sub_add_cancel hpos] at hrise
  · exact hall (i + 1) (by omega) (by omega)

end

/-- Settles O17. -/
theorem syncTestCompletes : Obligations.SyncTestCompletes := by
  unfold Obligations.SyncTestCompletes
  refine ⟨fun sync s hlock hfollow => ?command,
    fun n sync hlen hsync => ⟨fun h => goodSync_pulse h hlen, fun h => goodSync_span h hsync⟩⟩
  have hexec (r : NetPort × List NoticeOut) (hr : testSync sync s.nh = r) :
      exec (.syncTest sync) s = .next { s with nh := r.1, io := handAll s.env r.2 s.io } := hr ▸ rfl
  have htest : testSync sync s.nh = if goodSync s.nh.current sync then ({ s.nh with miss := 0 }, [])
      else if 2 ≤ s.nh.miss + 1 then
        ({ s.nh with lock := .hunt, run := 0, miss := s.nh.miss + 1, rx := [], tx := [],
                     line := Vector.replicate 33 0 }, [⟨.lost, .network, 0, 0, 0⟩])
      else ({ s.nh with miss := s.nh.miss + 1 }, []) := if_pos ⟨hlock, hfollow⟩
  refine ⟨fun hgood => ?good, fun hbad hmiss => ?first, fun hbad hmiss => ?second⟩
  case good =>
    rw [if_pos hgood] at htest
    exact hexec _ htest
  case first =>
    rw [if_neg (by simp [hbad]), if_neg (by omega), hmiss] at htest
    exact hexec _ htest
  case second =>
    rw [if_neg (by simp [hbad]), if_pos (by omega)] at htest
    exact hexec _ htest

/-! ## The lock machine and the transmit store (R162, R163, R168) -/

/-- Settles O16: the run count a cycle start leaves is the statement's, and the fourth goes to LOCKED. -/
theorem cycleStartCompletes : Obligations.CycleStartCompletes := by
  unfold Obligations.CycleStartCompletes
  intro bits s hhunt run
  have hrun : (if s.nh.run = 0 then 1 else if bits = s.nh.current.divider.len then s.nh.run + 1 else 1) = run := by
    by_cases hzero : s.nh.run = 0
    · simp [run, hzero]
    · simp [run, hzero]
  have hstart : seeCycleStart s.running bits s.nh =
      if 4 ≤ run then goLocked s.running { s.nh with run := run } else ({ s.nh with run := run }, []) := by
    rw [seeCycleStart, if_pos hhunt]
    dsimp only
    rw [hrun]
  have hexec (r : NetPort × List NoticeOut) (hr : seeCycleStart s.running bits s.nh = r) :
      exec (.cycleStart bits) s = .next { s with nh := r.1, io := handAll s.env r.2 s.io } := hr ▸ rfl
  refine ⟨fun hfew => ?few, fun hfour hworks => ?works, fun hfour hstopped => ?stopped⟩
  case few =>
    rw [if_neg (by omega)] at hstart
    exact hexec _ hstart
  case works =>
    rw [if_pos hfour, congrArg goLocked hworks] at hstart
    exact hexec _ hstart
  case stopped =>
    have hquiet : handAll s.env [⟨.locked, .network, flagWord s.nh.current.lead, 0, 0⟩] s.io = s.io :=
      if_neg (by simp [State.env, hstopped])
    rw [if_pos hfour, congrArg goLocked hstopped] at hstart
    have hio : handAll s.env (goLocked false { s.nh with run := run }).2 s.io = s.io := hquiet
    rw [hexec _ hstart, hio]
    rfl

/-- Settles O15. -/
theorem transmitReadCompletes : Obligations.TransmitReadCompletes := by
  unfold Obligations.TransmitReadCompletes
  intro s
  have hexec (r : NetPort × List NoticeOut) (hr : readTx s.running s.nh = r) :
      exec .transmitStoreRead s = .next { s with nh := r.1, io := handAll s.env r.2 s.io } := hr ▸ rfl
  refine ⟨fun hlock hworks => ⟨fun x rest htx => ?sends, fun htx => ?slips⟩, fun hlock hstopped => ?stopped,
    fun hlock => ?unlocked⟩
  case sends => exact hexec _ (by simp only [readTx, if_pos hlock, hworks, if_true, htx]; rfl)
  case slips => exact hexec _ (by simp only [readTx, if_pos hlock, hworks, if_true, htx]; rfl)
  case stopped => exact hexec _ (by rw [readTx, if_pos hlock, if_neg (by simp [hstopped]), zeroCycle])
  case unlocked => exact hexec _ (if_neg hlock)

/-! ## The receive store (R165, R166, R167) -/

/-- An entry put into the receive store: with 64 entries in it, the oldest is dropped with a slip. -/
theorem pushRx_eq (x : RxCycle) (p : NetPort) : pushRx x p =
    ({ p with rx := if 64 ≤ p.rx.length then p.rx.tail ++ [x] else p.rx ++ [x]
              rxSlips := if 64 ≤ p.rx.length then countUp p.rxSlips else p.rxSlips
              fault := p.fault || decide (64 ≤ p.rx.length) },
     if 64 ≤ p.rx.length then [⟨.slip, .network, 1, BitVec.ofNat 32
       (if 64 ≤ p.rx.length then countUp p.rxSlips else p.rxSlips), BitVec.ofNat 32 p.txSlips⟩] else []) := by
  by_cases hfull : 64 ≤ p.rx.length
  · rw [pushRx, if_neg (by simpa using hfull)]
    simp only [hfull, if_true, decide_true, Bool.or_true]
    rfl
  · rw [pushRx, if_pos (by simpa using hfull)]
    simp only [hfull, if_false, decide_false, Bool.or_false]

theorem checkCycle_good {slots : Vector Word 33} {p : NetPort} (h : p.current.check = false ∨
    slotBits p.current.narrow slots[32] = checkOf (voiceSamples p.current.narrow slots)) :
    checkCycle slots p = passCycle (voiceSamples p.current.narrow slots) p :=
  if_neg (by rcases h with h | h <;> simp [h])

theorem checkCycle_bad {slots : Vector Word 33} {p : NetPort} (h : ¬ (p.current.check = false ∨
    slotBits p.current.narrow slots[32] = checkOf (voiceSamples p.current.narrow slots))) :
    checkCycle slots p = failCycle p := by
  obtain ⟨hcheck, hdiffers⟩ := not_or.1 h
  exact if_pos (by simp [hdiffers, Bool.eq_true_of_not_eq_false hcheck])

theorem failCycle_eq (p : NetPort) : failCycle p =
    ({ p with checkFailures := countUp p.checkFailures, consecutive := min 32 (p.consecutive + 1)
              storm := p.storm || decide (min 32 (p.consecutive + 1) = 32 ∧ p.storm = false) },
     ⟨p.lastGood, true⟩,
     if min 32 (p.consecutive + 1) = 32 ∧ p.storm = false then
       [⟨.checkStorm, .network, BitVec.ofNat 32 (countUp p.checkFailures), 0, 0⟩] else []) := by
  simp [failCycle]

/-- Settles O12: a cycle is passed or failed, and its entry then pushed. -/
theorem receiveArrivalCompletes : Obligations.ReceiveArrivalCompletes := by
  unfold Obligations.ReceiveArrivalCompletes
  have hexec (slots : Vector Word 33) (s : State) (r : NetPort × List NoticeOut) (hr : arrive s.running slots s.nh = r) :
      exec (.receiveStoreArrival slots) s = .next { s with nh := r.1, io := handAll s.env r.2 s.io } := hr ▸ rfl
  refine ⟨fun slots s hidle => ?idle, fun slots s hlock hworks => ?works⟩
  case idle =>
    refine hexec slots s (s.nh, []) (if_neg fun hboth => ?_)
    rcases hidle with hlock | hstopped
    · exact hlock hboth.1
    · simp [hstopped] at hboth
  case works =>
    have harrive : arrive s.running slots s.nh = ((pushRx (checkCycle slots s.nh).2.1 (checkCycle slots s.nh).1).1,
        (checkCycle slots s.nh).2.2 ++ (pushRx (checkCycle slots s.nh).2.1 (checkCycle slots s.nh).1).2) :=
      if_pos ⟨hlock, hworks⟩
    simp only [pushRx_eq] at harrive
    refine ⟨fun hgood => ?good, fun hbad => ?bad⟩
    case good =>
      rw [checkCycle_good hgood] at harrive
      exact hexec slots s _ harrive
    case bad =>
      rw [checkCycle_bad hbad, failCycle_eq] at harrive
      exact hexec slots s _ harrive

/-! ## The Seat Highway cycle -/

/-- The entry that the timeline reads next: the oldest, or the one last delivered (R167). -/
def pulled (p : NetPort) : RxCycle := p.rx.head?.getD p.lastRx

theorem readRx_works {p : NetPort} (hlock : p.lock = .locked) : readRx true p =
    ({ p with rx := p.rx.tail, lastRx := pulled p, ys := p.ys ++ [(pulled p).samples]
              fault := p.fault || (pulled p).failed || decide (p.rx = [])
              rxSlips := if p.rx = [] then countUp p.rxSlips else p.rxSlips },
     if p.rx = [] then [⟨.slip, .network, 1,
       BitVec.ofNat 32 (if p.rx = [] then countUp p.rxSlips else p.rxSlips), BitVec.ofNat 32 p.txSlips⟩] else []) := by
  rw [readRx, if_pos hlock, if_pos rfl]
  cases hrx : p.rx with
  | nil => simp [slip, deliver, pulled, hrx]
  | cons x rest => simp [deliver, pulled, hrx]

theorem readRx_idle {p : NetPort} {working : Bool} (h : ¬ (p.lock = .locked ∧ working = true)) : readRx working p =
    ({ p with ys := p.ys ++ [zeroCycle], fault := p.fault || decide (p.lock ≠ .locked) }, []) := by
  rw [readRx]
  by_cases hlock : p.lock = .locked
  · have hstopped : working = false := by simpa [hlock] using h
    simp [hlock, hstopped]
  · simp [hlock]

theorem writeTx_works {p : NetPort} (hlock : p.lock = .locked) (x : Vector Sample 32) : writeTx true x p =
    ({ p with tx := (if 64 ≤ p.tx.length then p.tx.tail else p.tx) ++ [x]
              fault := p.fault || decide (64 ≤ p.tx.length)
              txSlips := if 64 ≤ p.tx.length then countUp p.txSlips else p.txSlips },
     if 64 ≤ p.tx.length then [⟨.slip, .network, 2, BitVec.ofNat 32 p.rxSlips,
       BitVec.ofNat 32 (if 64 ≤ p.tx.length then countUp p.txSlips else p.txSlips)⟩] else []) := by
  rw [writeTx, if_pos ⟨hlock, rfl⟩]
  by_cases hfull : 64 ≤ p.tx.length
  · rw [if_neg (by simpa using hfull)]
    simp only [hfull, if_true, decide_true, Bool.or_true]
    rfl
  · rw [if_pos (by simpa using hfull)]
    simp only [hfull, if_false, decide_false, Bool.or_false]

theorem writeTx_idle {p : NetPort} {working : Bool} (h : ¬ (p.lock = .locked ∧ working = true)) (x : Vector Sample 32) :
    writeTx working x p = (p, []) := if_neg h

theorem leadLock_eq (working : Bool) (p : NetPort) : leadLock working p =
    (if p.leadStart = true then
      { p with leadStart := false, lock := .locked, lastGood := zeroCycle, miss := 0, consecutive := 0, storm := false
               rx := if working = true then List.replicate 32 .zero else []
               tx := if working = true then List.replicate 32 zeroCycle else [] }
     else p,
     if p.leadStart = true then [⟨.locked, .network, flagWord p.current.lead, 0, 0⟩] else []) := by
  rw [leadLock]
  split <;> rfl

theorem transmitEntry_none {s : State} {n : SlotNo} (h : ∀ j : SeatNo, s.seats[j].mixer.lineSlot ≠ some n.val) :
    (transmitEntry s)[n] = 0 := by
  have hfind : (List.finRange 32).find? (fun j => s.seats[j].mixer.lineSlot = some n.val) = none :=
    List.find?_eq_none.2 fun j _ => by simpa using h j
  rw [transmitEntry, tabulate_get, hfind]

/-- A slot is sent for the first of the seats that held it (R168). -/
theorem transmitEntry_first {s : State} {n : SlotNo} {j : SeatNo} (h : s.seats[j].mixer.lineSlot = some n.val)
    (hfirst : ∀ i : SeatNo, i < j → s.seats[i].mixer.lineSlot ≠ some n.val) :
    (transmitEntry s)[n] = s.seats[j].mixer.line.getD s.cycle 0 := by
  have hfind : (List.finRange 32).find? (fun j => decide (s.seats[j].mixer.lineSlot = some n.val)) = some j :=
    Fin.find?_eq_find?_finRange.symm.trans
      (Fin.find?_eq_some_iff.2 ⟨decide_eq_true h, fun i hi => decide_eq_false (hfirst i hi)⟩)
  rw [transmitEntry, tabulate_get, hfind]

theorem seatPortCycle_slots {s : State} (up : Vector Word 32) (h : s.sh.running = false ∨ s.running = false) :
    (seatPortCycle s up).slots = s.sh.slots := if_neg (by rcases h with h | h <;> simp [h])

theorem seatPortCycle_sampled {s : State} (up : Vector Word 32) (hport : s.sh.running = true) (hworks : s.running = true)
    (k : SeatNo) : (seatPortCycle s up).slots[k] = s.sh.slots[k].sampled up[k] := by
  simp only [seatPortCycle, hport, hworks, Bool.and_self, if_true]
  exact tabulate_get ..

theorem seatPortCycle_row_idle {s : State} (up : Vector Word 32) (h : s.sh.running = false ∨ s.running = false) :
    (if s.sh.running && s.running then tabulate fun k => micOf up[k] else zeroCycle) = zeroCycle :=
  if_neg (by rcases h with h | h <;> simp [h])

theorem leadLock_notices (working : Bool) (p : NetPort) : (leadLock working p).2 =
    if p.leadStart = true then [⟨.locked, .network, flagWord p.current.lead, 0, 0⟩] else [] := by
  rw [leadLock_eq]

/-- The port through a cycle, of a part that works and a LOCKED port: both stores are used, each with its slip. -/
theorem netPortCycle_works {p : NetPort} (hlock : p.lock = .locked) (x : Vector Sample 32) : netPortCycle true x p =
    ((leadLock true { p with
        rx := p.rx.tail, lastRx := pulled p, ys := p.ys ++ [(pulled p).samples]
        fault := p.fault || (pulled p).failed || decide (p.rx = []) || decide (64 ≤ p.tx.length)
        rxSlips := if p.rx = [] then countUp p.rxSlips else p.rxSlips
        tx := (if 64 ≤ p.tx.length then p.tx.tail else p.tx) ++ [x]
        txSlips := if 64 ≤ p.tx.length then countUp p.txSlips else p.txSlips }).1,
      (if p.rx = [] then [⟨.slip, .network, 1, BitVec.ofNat 32
        (if p.rx = [] then countUp p.rxSlips else p.rxSlips), BitVec.ofNat 32 p.txSlips⟩] else []) ++
      (if 64 ≤ p.tx.length then [⟨.slip, .network, 2, BitVec.ofNat 32
        (if p.rx = [] then countUp p.rxSlips else p.rxSlips), BitVec.ofNat 32
        (if 64 ≤ p.tx.length then countUp p.txSlips else p.txSlips)⟩] else []) ++
      if p.leadStart = true then [⟨.locked, .network, flagWord p.current.lead, 0, 0⟩] else []) := by
  rw [netPortCycle, readRx_works hlock, writeTx_works (by exact hlock), leadLock_notices]

/-- A stopped part, or a port that is not LOCKED: zeros are delivered, and no store is used. -/
theorem netPortCycle_idle {p : NetPort} {working : Bool} (h : ¬ (p.lock = .locked ∧ working = true))
    (x : Vector Sample 32) : netPortCycle working x p =
      ((leadLock working { p with ys := p.ys ++ [zeroCycle], fault := p.fault || decide (p.lock ≠ .locked) }).1,
        if p.leadStart = true then [⟨.locked, .network, flagWord p.current.lead, 0, 0⟩] else []) := by
  rw [netPortCycle, readRx_idle h, writeTx_idle (by exact h), leadLock_notices]
  rfl

theorem mem_ite_singleton {α : Type} {P : Prop} [Decidable P] {a b : α} (h : a ∈ if P then [b] else []) : a = b := by
  split at h
  · exact List.mem_singleton.1 h
  · simp at h

/-- A cycle's notices are of the HIGHWAY class. -/
theorem netPortCycle_highway (working : Bool) (x : Vector Sample 32) (p : NetPort) :
    ∀ n ∈ (netPortCycle working x p).2, n.code.cls = .highway := by
  intro n hn
  by_cases hworks : p.lock = .locked ∧ working = true
  · obtain ⟨hlock, rfl⟩ := hworks
    rw [netPortCycle_works hlock] at hn
    simp only [List.mem_append] at hn
    rcases hn with (hn | hn) | hn <;> rw [mem_ite_singleton hn] <;> rfl
  · rw [netPortCycle_idle hworks] at hn
    rw [mem_ite_singleton hn]
    rfl

/-- Settles O9. -/
theorem seatHighwayCycleCompletes : Obligations.SeatHighwayCycleCompletes := by
  unfold Obligations.SeatHighwayCycleCompletes
  intro up s hcycle
  have hexec : exec (.seatHighwayCycle up) s = .next (s.seatCycle up) := congrArg Host.Outcome.next (if_pos hcycle)
  obtain ⟨hio, hshown⟩ := (handAll_waitsOf s.env (netPortCycle_highway s.running (transmitEntry s) s.nh) s.io).eq
  refine ⟨_, if s.sh.running && s.running then tabulate fun k => micOf up[k] else zeroCycle, hexec, rfl, rfl, hio, hshown,
    fun hport hworks k => ?sampled, fun hidle => ?idle, fun k => ?line, transmitEntry s, fun n => transmitEntry_none,
    fun n j => transmitEntry_first, ?nh, ?notices⟩
  case sampled =>
    have hslot := seatPortCycle_sampled up hport hworks k
    refine ⟨?_, congrArg SlotStatus.present hslot, congrArg SlotStatus.muteKey hslot, congrArg SlotStatus.talkKey hslot⟩
    rw [hport, hworks]
    exact tabulate_get ..
  case idle =>
    refine ⟨seatPortCycle_slots up hidle, fun k => ?_⟩
    rw [seatPortCycle_row_idle up hidle]
    exact Vector.getElem_replicate ..
  case line =>
    refine (tabulate_get ..).trans ?_
    simp only [Bool.and_eq_true, decide_eq_true_eq, and_assoc]
  case nh =>
    by_cases hworks : s.nh.lock = .locked ∧ s.running = true
    · have hnh : (s.seatCycle up).nh = (netPortCycle s.running (transmitEntry s) s.nh).1 := rfl
      rw [hnh, hworks.2, netPortCycle_works hworks.1, leadLock_eq]
      simp only [hworks.1, true_and, and_self, if_true]
      rfl
    · have hnh : (s.seatCycle up).nh = (netPortCycle s.running (transmitEntry s) s.nh).1 := rfl
      rw [hnh, netPortCycle_idle hworks, leadLock_eq]
      simp only [hworks, if_false]
      rfl
  case notices =>
    have hio : (s.seatCycle up).io = handAll s.env (netPortCycle s.running (transmitEntry s) s.nh).2 s.io := rfl
    refine hio.trans (congrArg (handAll s.env · s.io) ?_)
    by_cases hworks : s.nh.lock = .locked ∧ s.running = true
    · rw [hworks.2, netPortCycle_works hworks.1]
      simp only [hworks.1, true_and, and_self, List.append_assoc]
      rfl
    · rw [netPortCycle_idle hworks]
      simp only [hworks, false_and, if_false, List.nil_append]
      rfl

end Sys2Proof.Highways
end

section
/-! The suppressor's gain and samples (3.3), the duck ramp and the quiet count (4.6, 4.7), and a bus sample (8.3).  Both ramps
are `rampAt`, whose value at a sample lies between its ends. -/

namespace Sys2Proof.Levelling

open Sys2Proof.Machine Sys2Proof.NoiseSuppressor

/-! ## A ramp across a frame (R56, R80) -/

/-- The part of a distance that a ramp has gone by a sample. -/
theorem tdiv_frame_bounds {d : Int} {i : Nat} (hd : 0 ≤ d) (hi : i < 80) :
    0 ≤ (d * (i + 1)).tdiv 80 ∧ (d * (i + 1)).tdiv 80 ≤ d := by
  have hlo : 0 ≤ d * (i + 1) := Int.mul_nonneg hd (by omega)
  have hhi : d * (i + 1) ≤ d * 80 := Int.mul_le_mul_of_nonneg_left (by omega) hd
  rw [Int.tdiv_eq_ediv_of_nonneg hlo]
  omega

theorem rampAt_of_le {old new i : Nat} (hle : old ≤ new) (hi : i < 80) :
    (old : Int) ≤ rampAt old new i ∧ rampAt old new i ≤ new := by
  obtain ⟨hlo, hhi⟩ := tdiv_frame_bounds (d := (new : Int) - old) (by omega) hi
  have hramp : rampAt old new i = old + (((new : Int) - old) * (i + 1)).tdiv 80 := rfl
  omega

theorem rampAt_of_ge {old new i : Nat} (hle : new ≤ old) (hi : i < 80) :
    (new : Int) ≤ rampAt old new i ∧ rampAt old new i ≤ old := by
  obtain ⟨hlo, hhi⟩ := tdiv_frame_bounds (d := (old : Int) - new) (by omega) hi
  have hneg : ((new : Int) - old) * (i + 1) = -(((old : Int) - new) * (i + 1)) := by rw [← Int.neg_mul, Int.neg_sub]
  have hramp : rampAt old new i = old + (((new : Int) - old) * (i + 1)).tdiv 80 := rfl
  rw [hramp, hneg, Int.neg_tdiv]
  omega

theorem rampAt_bounds {old new top i : Nat} (hold : old ≤ top) (hnew : new ≤ top) (hi : i < 80) :
    0 ≤ rampAt old new i ∧ rampAt old new i ≤ top := by
  obtain hle | hle := Nat.le_total old new
  · obtain ⟨hlo, hhi⟩ := rampAt_of_le hle hi
    omega
  · obtain ⟨hlo, hhi⟩ := rampAt_of_ge hle hi
    omega

theorem rampAt_last (old new : Nat) : rampAt old new 79 = new := by
  have hramp : rampAt old new 79 = old + (((new : Int) - old) * 80).tdiv 80 := rfl
  rw [hramp, Int.mul_tdiv_cancel _ (by decide)]
  omega

theorem rampAt_same (old i : Nat) : rampAt old old i = old := by
  simp [rampAt]

/-! ## The suppressor -/

theorem roundUnity_mul_unity (x : Int) : roundUnity (x * 16384) = x := by
  unfold roundUnity
  omega

/-- A sample scaled by a gain of at most unity stays a sample. -/
theorem roundUnity_bounds {v g : Int} (hv : -32768 ≤ v ∧ v ≤ 32767) (hg : 0 ≤ g ∧ g ≤ 16384) :
    -32768 ≤ (v * g + 8192) / 16384 ∧ (v * g + 8192) / 16384 ≤ 32767 := by
  obtain ⟨hlo, hhi⟩ := hv
  obtain ⟨hg0, hg1⟩ := hg
  have hbelow : -32768 * 16384 ≤ v * g := by nlinarith
  have habove : v * g ≤ 32767 * 16384 := by nlinarith
  omega

theorem bandOf_le (E F : Nat) : bandOf E F ≤ 7 := by
  obtain hlt | hle := Nat.lt_or_ge E (2 * F)
  · simp [bandOf_of_lt hlt]
  · exact (bandOf_spec hle).2.1

theorem targetGain_eq (n : Noise) (b : Fin 8) : targetGain n b.val = n.gainTable[b] := by
  simp [targetGain]

theorem appliedGain_le {release target old top : Nat} (ht : target ≤ top) (ho : old ≤ top) :
    appliedGain release target old ≤ top := by
  unfold appliedGain
  split <;> omega

theorem initialised_gain_le {x : Suppressor} (h : x.gain ≤ 16384) : x.initialised.gain ≤ 16384 := by
  unfold Suppressor.initialised
  split
  · exact le_rfl
  · exact h

section
variable {n : Noise} {x : Suppressor} {xs : List Sample}

theorem presentFrame_gain (henable : n.enable = true) : (presentFrame n x xs).1.gain =
    appliedGain n.releaseStep (targetGain n (presentFrame n x xs).1.band) x.initialised.gain := if_pos henable

theorem presentFrame_gain_of_band {b : Fin 8} (henable : n.enable = true) (hb : (presentFrame n x xs).1.band = b.val) :
    (presentFrame n x xs).1.gain = appliedGain n.releaseStep n.gainTable[b] x.initialised.gain := by
  rw [presentFrame_gain henable, hb, targetGain_eq]

theorem presentFrame_gain_disabled (h : n.enable = false) : (presentFrame n x xs).1.gain = 16384 :=
  if_neg (by simp [h])

/-- The applied gain stays at most unity when the gain table does. -/
theorem presentFrame_gain_le (htable : ∀ j : Fin 8, n.gainTable[j] ≤ 16384) (hgain : x.gain ≤ 16384) :
    (presentFrame n x xs).1.gain ≤ 16384 := by
  cases henable : n.enable
  · rw [presentFrame_gain_disabled henable]
  · have hband : (presentFrame n x xs).1.band < 8 := Nat.lt_succ_of_le (bandOf_le ..)
    rw [presentFrame_gain_of_band (b := ⟨_, hband⟩) henable rfl]
    exact appliedGain_le (htable _) (initialised_gain_le hgain)

theorem presentFrame_sample (henable : n.enable = true) {i : Nat} {v : Sample} (hv : xs[i]? = some v) :
    (presentFrame n x xs).2[i]? = some ((v * rampAt x.initialised.gain (presentFrame n x xs).1.gain i + 8192) / 16384) := by
  have hsamples : (presentFrame n x xs).2 = xs.mapIdx fun i v => suppressSample v
      (rampAt (if n.enable then x.initialised.gain else Config.unity) (presentFrame n x xs).1.gain i) := rfl
  rw [hsamples, List.getElem?_mapIdx, hv, if_pos henable]
  rfl

theorem presentFrame_disabled (h : n.enable = false) : (presentFrame n x xs).2 = xs := by
  have hsamples : (presentFrame n x xs).2 = xs.mapIdx fun i v => suppressSample v
      (rampAt (if n.enable then x.initialised.gain else Config.unity) (presentFrame n x xs).1.gain i) := rfl
  rw [hsamples, presentFrame_gain_disabled h, if_neg (by simp [h])]
  refine List.ext_getElem (by simp) fun i h₁ h₂ => ?_
  rw [List.getElem_mapIdx, rampAt_same]
  exact roundUnity_mul_unity _

end

/-- Settles O40. -/
theorem micOutNeverSaturates : Obligations.MicOutNeverSaturates := by
  unfold Obligations.MicOutNeverSaturates
  refine ⟨fun n x xs b henable hb => ?gain, fun n x xs h => ⟨presentFrame_disabled h, presentFrame_gain_disabled h⟩,
    fun n x xs i htable hgain henable hlen hxs hi => ?samples⟩
  case gain =>
    rw [presentFrame_gain_of_band henable hb]
    exact ⟨fun h => if_pos h, fun h => if_neg h.not_ge⟩
  case samples =>
    have hi' : i < xs.length := by omega
    have hv : xs[i]? = some xs[i] := List.getElem?_eq_getElem hi'
    have hg := rampAt_bounds (initialised_gain_le hgain) (presentFrame_gain_le (xs := xs) htable hgain) hi
    exact ⟨_, _, hv, rfl, hg.1, hg.2, presentFrame_sample henable hv, roundUnity_bounds (hxs _ (List.getElem_mem hi')) hg⟩

/-! ## The duck ramp and the quiet count -/

/-- Settles O41. -/
theorem duckRamp : Obligations.DuckRamp := by
  unfold Obligations.DuckRamp
  intro old new i hold hnew hi
  refine ⟨rampAt_last old new, fun h => rampAt_of_le h hi, fun h => rampAt_of_ge h hi, fun cust hcust => ?gain⟩
  obtain ⟨hlo, hhi⟩ := rampAt_bounds hold hnew hi
  have hgain : effectiveGain cust old new i = (cust * rampAt old new i + 8192) / 16384 := rfl
  have hbelow : 0 ≤ (cust : Int) * rampAt old new i := Int.mul_nonneg (by omega) hlo
  have habove : (cust : Int) * rampAt old new i ≤ 32767 * 16384 :=
    Int.mul_le_mul (by omega) hhi hlo (by decide)
  refine ⟨by omega, by omega, ?_⟩
  rintro rfl rfl
  rw [effectiveGain, rampAt_same]
  exact roundUnity_mul_unity _

theorem nextQuiet_false (q : Nat) (h : q ≤ 20) : nextQuiet false q = min 20 (q + 1) := by
  simp only [nextQuiet, Bool.false_eq_true, if_false]
  split <;> omega

/-- Quiet frames raise the count up to 20. -/
theorem foldl_nextQuiet (n q : Nat) (h : q ≤ 20) :
    (List.replicate n false).foldl (fun q g => nextQuiet g q) q = min 20 (q + n) := by
  induction n with
  | zero => simpa using h
  | succ n ih =>
    rw [List.replicate_succ', List.foldl_append, ih, List.foldl_cons, List.foldl_nil,
      nextQuiet_false _ (Nat.min_le_left ..)]
    omega

/-- Settles O42. -/
theorem quietCountRules : Obligations.QuietCountRules := by
  unfold Obligations.QuietCountRules
  refine ⟨fun q n => foldl_nextQuiet n q, fun q n => ⟨?_, by simp [ruling]⟩⟩
  have hgate : nextQuiet true q = 0 := rfl
  rw [List.foldl_cons, hgate, foldl_nextQuiet n 0 (by decide), ruling, Bool.not_false, Bool.and_true]
  exact decide_eq_decide.2 (by omega)

/-! ## A bus sample (R146, R148) -/

theorem roundUnity_eq {S q : Int} (hlo : 16384 * q ≤ S + 8192) (hhi : S + 8192 < 16384 * (q + 1)) : roundUnity S = q := by
  unfold roundUnity
  omega

theorem max_min_sample (x : Int) :
    max (-32768) (min 32767 x) = if x < -32768 then -32768 else if 32767 < x then 32767 else x := by
  split_ifs <;> omega

theorem saturate_eq (x : Int) : saturate x = if x < -32768 then -32768 else if 32767 < x then 32767 else x :=
  max_min_sample x

theorem saturate_ne_iff (x : Int) : saturate x ≠ x ↔ x < -32768 ∨ 32767 < x := by
  rw [ne_eq, show saturate x = x ↔ max (-32768) (min 32767 x) = x from Iff.rfl]
  omega

theorem clipped_iff (S : Int) : clipped S = true ↔ roundUnity S < -32768 ∨ 32767 < roundUnity S := by
  simp [clipped]

/-- A sample is saturated when rounding alone would leave the sample range. -/
theorem clipped_eq (S : Int) : clipped S = decide (busSample S ≠ roundUnity S) := by
  rw [Bool.eq_iff_iff, clipped_iff, decide_eq_true_eq]
  exact (saturate_ne_iff _).symm

/-- Settles O43. -/
theorem busSampleRounds : Obligations.BusSampleRounds := by
  unfold Obligations.BusSampleRounds
  refine ⟨fun S q hlo hhi => ⟨?_, ?_⟩, fun sums n _ => ?_⟩
  · rw [busSample, roundUnity_eq hlo hhi, saturate_eq]
  · rw [clipped_iff, roundUnity_eq hlo hhi]
  · rw [nextClips, List.countP_eq_length_filter, funext clipped_eq]

end Sys2Proof.Levelling
end

section
/-! One seat's echo canceller through the samples of a frame, and over frames (Chapter 2): the tap window, DOUBLE_TALK, the
taps, and the runs of the state decision. -/

namespace Sys2Proof.EchoCanceller

open Sys2Proof.Machine

/-! ## Frames of a list, zeros standing for missing samples -/

theorem takePad_eq_map (n : Nat) (l : List Int) : takePad n l = (List.range n).map fun m => l.getD m 0 := by
  induction n generalizing l with
  | zero => rfl
  | succ n ih => cases l <;> simp [takePad, ih, List.range_succ_eq_map, Function.comp_def]

@[simp] theorem takePad_length (n : Nat) (l : List Int) : (takePad n l).length = n := by simp [takePad_eq_map]

theorem takePad_getD {n m : Nat} (l : List Int) (h : m < n) : (takePad n l).getD m 0 = l.getD m 0 := by
  simp [takePad_eq_map, h]

theorem getD_drop (l : List Int) (i m : Nat) : (l.drop i).getD m 0 = l.getD (i + m) 0 := by
  simp [List.getD_eq_getElem?_getD]

theorem eq_map_getD {α : Type} {l : List α} {n : Nat} (d : α) (h : l.length = n) :
    l = (List.range n).map fun m => l.getD m d :=
  List.ext_getElem (by simp [h]) fun i h₁ h₂ => by simp [h₁]

theorem zipWith_eq_map {α : Type} (f : Int → Int → α) {l w : List Int} {n : Nat} (hl : l.length = n) (hw : w.length = n) :
    List.zipWith f l w = (List.range n).map fun m => f (l.getD m 0) (w.getD m 0) :=
  List.ext_getElem (by simp [hl, hw]) fun i h₁ h₂ => by
    have hi : i < n := by simpa using h₂
    simp [hl, hw, hi]

/-! ## The tap window (R24, R25) -/

theorem tapWindow_length (full : List Sample) (delay taps i : Nat) : (tapWindow full delay taps i).length = taps :=
  takePad_length ..

theorem tapWindow_getD (full : List Sample) (delay i : Nat) {taps m : Nat} (h : m < taps) :
    (tapWindow full delay taps i).getD m 0 = full.getD (79 - i + delay + m) 0 :=
  (takePad_getD _ h).trans (getD_drop ..)

theorem foldl_max_natAbs (w : List Sample) (top : Nat) :
    let r := w.foldl (fun m x => max m x.natAbs) top
    top ≤ r ∧ (∀ v ∈ w, v.natAbs ≤ r) ∧ (r = top ∨ ∃ v ∈ w, r = v.natAbs) := by
  induction w generalizing top with
  | nil => simp
  | cons x w ih =>
    obtain ⟨htop, hall, hsome⟩ := ih (max top x.natAbs)
    refine ⟨(Nat.le_max_left ..).trans htop, List.forall_mem_cons.2 ⟨(Nat.le_max_right ..).trans htop, hall⟩, ?_⟩
    rcases hsome with hsome | ⟨v, hv, hsome⟩
    · obtain hle | hle := Nat.le_total top x.natAbs
      · exact .inr ⟨x, List.mem_cons_self, hsome.trans (Nat.max_eq_right hle)⟩
      · exact .inl (hsome.trans (Nat.max_eq_left hle))
    · exact .inr ⟨v, List.mem_cons_of_mem _ hv, hsome⟩

/-- M is the largest magnitude of the window. -/
theorem natAbs_le_windowLevel {w : List Sample} {v : Sample} (h : v ∈ w) : v.natAbs ≤ windowLevel w :=
  (foldl_max_natAbs w 0).2.1 v h

theorem windowLevel_attained (w : List Sample) : windowLevel w = 0 ∨ ∃ v ∈ w, windowLevel w = v.natAbs :=
  (foldl_max_natAbs w 0).2.2

theorem windowLevel_silent {w : List Sample} (h : ∀ v ∈ w, v = 0) : windowLevel w = 0 := by
  obtain hzero | ⟨v, hv, hlevel⟩ := windowLevel_attained w
  · exact hzero
  · rw [hlevel, h v hv, Int.natAbs_zero]

/-! ## One sample (R26 to R29) -/

/-- The talk comparison fires at a sample, for a number of taps (R27). -/
def firesAt (e : Echo) (full : List Sample) (taps : Nat) (y : Nat × Sample) : Prop :=
  windowLevel (tapWindow full e.bulkDelay taps y.1) < y.2.natAbs * 2 ^ e.talkRatioShift

section
variable {e : Echo} {fault : Bool} {full : List Sample} {r : EcRun} {y : Nat × Sample}

theorem talkFires_iff : talkFires e.talkRatioShift y.2 (windowLevel (tapWindow full e.bulkDelay r.taps.length y.1)) = true ↔
    firesAt e full r.taps.length y := decide_eq_true_iff

theorem ecSample_doubleTalk : (ecSample e fault full r y).doubleTalk = true ↔
    r.doubleTalk = true ∨ firesAt e full r.taps.length y ∨ 0 < r.talk := by
  simp only [ecSample, Bool.or_eq_true, talkFires_iff, decide_eq_true_eq]

theorem ecSample_lowReference : (ecSample e fault full r y).lowReference = true ↔ r.lowReference = true ∨
    windowPower (tapWindow full e.bulkDelay r.taps.length y.1) < e.referenceFloor := by
  simp only [ecSample, Bool.or_eq_true, decide_eq_true_eq]

theorem ecSample_talk_fires (h : firesAt e full r.taps.length y) :
    (ecSample e fault full r y).talk = 80 * e.talkHangover := if_pos (talkFires_iff.2 h)

theorem ecSample_talk_quiet (h : ¬ firesAt e full r.taps.length y) : (ecSample e fault full r y).talk = r.talk - 1 :=
  if_neg (talkFires_iff.not.2 h)

/-- With a hold reason the taps stand (R28). -/
theorem ecSample_held (h : (firesAt e full r.taps.length y ∨ 0 < r.talk) ∨ e.hostFreeze = true ∨
    windowPower (tapWindow full e.bulkDelay r.taps.length y.1) < e.referenceFloor ∨ fault = true) :
    (ecSample e fault full r y).taps = r.taps :=
  if_pos (by simpa only [Bool.or_eq_true, talkFires_iff, decide_eq_true_eq, or_assoc] using h)

/-- With none, every tap gains its own product (R29). -/
theorem ecSample_updated (h : ¬ ((firesAt e full r.taps.length y ∨ 0 < r.talk) ∨ e.hostFreeze = true ∨
    windowPower (tapWindow full e.bulkDelay r.taps.length y.1) < e.referenceFloor ∨ fault = true)) :
    (ecSample e fault full r y).taps = List.zipWith
      (updateTap (stepGain e.stepShift
        (saturate (y.2 - estimate r.taps (tapWindow full e.bulkDelay r.taps.length y.1)))
        (windowPower (tapWindow full e.bulkDelay r.taps.length y.1))))
      r.taps (tapWindow full e.bulkDelay r.taps.length y.1) :=
  if_neg (by simpa only [Bool.or_eq_true, talkFires_iff, decide_eq_true_eq, or_assoc] using h)

theorem ecSample_taps_length : (ecSample e fault full r y).taps.length = r.taps.length := by
  by_cases hheld : (firesAt e full r.taps.length y ∨ 0 < r.talk) ∨ e.hostFreeze = true ∨
      windowPower (tapWindow full e.bulkDelay r.taps.length y.1) < e.referenceFloor ∨ fault = true
  · rw [ecSample_held hheld]
  · rw [ecSample_updated hheld, List.length_zipWith, tapWindow_length, Nat.min_self]

/-- Each tap stays within 24 signed bits. -/
theorem ecSample_taps_bounds (h : ∀ t ∈ r.taps, -8388608 ≤ t ∧ t ≤ 8388607) :
    ∀ t ∈ (ecSample e fault full r y).taps, -8388608 ≤ t ∧ t ≤ 8388607 := by
  by_cases hheld : (firesAt e full r.taps.length y ∨ 0 < r.talk) ∨ e.hostFreeze = true ∨
      windowPower (tapWindow full e.bulkDelay r.taps.length y.1) < e.referenceFloor ∨ fault = true
  · rwa [ecSample_held hheld]
  · intro t ht
    rw [ecSample_updated hheld, ← List.map_uncurry_zip_eq_zipWith] at ht
    obtain ⟨⟨a, b⟩, -, rfl⟩ := List.mem_map.1 ht
    simp only [Function.uncurry, updateTap]
    omega

end

/-! ## DOUBLE_TALK (R27) -/

section
variable {e : Echo} {fault : Bool} {full : List Sample}

theorem foldl_ecSample_taps_length (ys : List (Nat × Sample)) (r : EcRun) :
    (ys.foldl (ecSample e fault full) r).taps.length = r.taps.length := by
  induction ys generalizing r with
  | nil => rfl
  | cons y ys ih => exact (ih _).trans ecSample_taps_length

/-- Samples that do not fire use the double-talk count up. -/
theorem foldl_ecSample_talk {n : Nat} {ys : List (Nat × Sample)} (h : ∀ y ∈ ys, ¬ firesAt e full n y) {r : EcRun}
    (hr : r.taps.length = n) : (ys.foldl (ecSample e fault full) r).talk = r.talk - ys.length := by
  induction ys generalizing r with
  | nil => rfl
  | cons y ys ih =>
    obtain ⟨hy, hys⟩ := List.forall_mem_cons.1 h
    rw [List.foldl_cons, ih hys (ecSample_taps_length.trans hr), ecSample_talk_quiet (hr ▸ hy), List.length_cons]
    omega

end

/-- Settles O46. -/
theorem doubleTalkHold : Obligations.DoubleTalkHold := by
  unfold Obligations.DoubleTalkHold
  refine ⟨fun e fault full r y => ?sample, fun e fault full r first last ys hfirst hys hlast => ?hold,
    fun w y shift hw hy => ?silent, fun zero x hx => ?off⟩
  case sample =>
    have hq : (ecSample e fault full { r with doubleTalk := false } y).doubleTalk = true ↔
        firesAt e full r.taps.length y ∨ 0 < r.talk := ecSample_doubleTalk.trans (by simp)
    exact ⟨hq, fun h => ecSample_held (r := { r with doubleTalk := false }) (.inl (hq.1 h)), ecSample_doubleTalk,
      ecSample_talk_fires (fault := fault) (r := { r with doubleTalk := false }),
      ecSample_talk_quiet (fault := fault) (r := { r with doubleTalk := false })⟩
  case hold =>
    have hlen : (ys.foldl (ecSample e fault full) (ecSample e fault full r first)).taps.length = r.taps.length :=
      (foldl_ecSample_taps_length ys _).trans ecSample_taps_length
    have htalk : (ys.foldl (ecSample e fault full) (ecSample e fault full r first)).talk =
        80 * e.talkHangover - ys.length := by
      rw [foldl_ecSample_talk hys ecSample_taps_length, ecSample_talk_fires hfirst]
    have hquiet : ¬ firesAt e full (ys.foldl (ecSample e fault full) (ecSample e fault full r first)).taps.length last := by
      rwa [hlen]
    rw [Bool.eq_iff_iff, ecSample_doubleTalk, decide_eq_true_eq]
    simp only [hquiet, htalk, Bool.false_eq_true, false_or]
    omega
  case silent =>
    rw [windowLevel_silent hw]
    exact Nat.mul_pos (Int.natAbs_pos.2 hy) (Nat.two_pow_pos _)
  case off => simp [promoteCanceller, hx]

/-! ## The taps of a frame -/

section
variable {e : Echo} {fault : Bool} {full : List Sample}

theorem foldl_ecSample_held (h : fault = true ∨ e.hostFreeze = true) (ys : List (Nat × Sample)) (r : EcRun) :
    (ys.foldl (ecSample e fault full) r).taps = r.taps := by
  induction ys generalizing r with
  | nil => rfl
  | cons y ys ih => exact (ih _).trans (ecSample_held (.inr (by tauto)))

theorem foldl_ecSample_taps_bounds (ys : List (Nat × Sample)) {r : EcRun}
    (h : ∀ t ∈ r.taps, -8388608 ≤ t ∧ t ≤ 8388607) :
    ∀ t ∈ (ys.foldl (ecSample e fault full) r).taps, -8388608 ≤ t ∧ t ≤ 8388607 := by
  induction ys generalizing r with
  | nil => exact h
  | cons y ys ih => exact ih (ecSample_taps_bounds h)

end

section
variable (e : Echo) (active fault : Bool) (line y : List Sample) {x : Canceller}

/-- What a frame leaves of the taps of a canceller, running or OFF. -/
theorem cancelFrame_taps (x : Canceller) : (cancelFrame e active fault line y x).1.taps =
    if x.state = .off then x.taps
    else ((y.mapIdx fun i v => (i, v)).foldl (ecSample e fault (workingHistory line x.history))
      ⟨x.taps, x.talk, x.power, x.level, false, false, []⟩).taps := by
  rw [cancelFrame]
  cases x.state <;> rfl

theorem cancelFrame_off (h : x.state = .off) : cancelFrame e active fault line y x =
    ({ x with
        history := takePad Config.historyLength (workingHistory line x.history), power := 0, level := 0
        ex := if active then meanSquare (takePad Config.frameCycles
          ((workingHistory line x.history).drop e.bulkDelay)) else 0
        ey := if active then meanSquare y else 0, ee := if active then meanSquare y else 0
        reasons := .none }, y) := by
  rw [cancelFrame, h]

theorem cancelFrame_running (h : x.state ≠ .off) : cancelFrame e active fault line y x =
    (let r := (y.mapIdx fun i v => (i, v)).foldl (ecSample e fault (workingHistory line x.history))
      ⟨x.taps, x.talk, x.power, x.level, false, false, []⟩
    ({ x with
        taps := r.taps, talk := r.talk, power := r.power, level := r.level
        history := takePad Config.historyLength (workingHistory line x.history)
        ex := if active then meanSquare (takePad Config.frameCycles
          ((workingHistory line x.history).drop e.bulkDelay)) else 0
        ey := if active then meanSquare y else 0, ee := if active then meanSquare r.errors.reverse else 0
        reasons := ⟨r.doubleTalk, e.hostFreeze, r.lowReference, fault⟩ }, r.errors.reverse)) := by
  rw [cancelFrame]
  cases hx : x.state
  · exact absurd hx h
  all_goals rfl

end

/-- The reference of a frame begins at the bulk delay (R24). -/
theorem reference_eq (full : List Sample) (delay : Nat) :
    takePad 80 (full.drop delay) = (List.range 80).map fun m => full.getD (delay + m) 0 := by
  simp only [takePad_eq_map, getD_drop]

/-- The exact sums of a window over the numbers of its taps (R25, R26). -/
theorem windowPower_eq {w : List Sample} {n : Nat} (h : w.length = n) :
    windowPower w = ((List.range n).map fun m => (w.getD m 0).natAbs * (w.getD m 0).natAbs).sum := by
  conv_lhs => rw [eq_map_getD (0 : Int) h]
  rw [windowPower, List.map_map]
  rfl

theorem estimate_eq {taps : List Int} {w : List Sample} {n : Nat} (ht : taps.length = n) (hw : w.length = n) :
    estimate taps w = max (-32768) (min 32767 ((((List.range n).map fun m =>
      (taps.getD m 0 : Int) * (w.getD m 0 : Int)).sum + 4194304) / 8388608)) := by
  rw [estimate, zipWith_eq_map _ ht hw]
  rfl

/-- The largest magnitude of a window, by the numbers of its taps. -/
theorem windowLevel_getD {w : List Sample} {n : Nat} (h : w.length = n) :
    (∀ m, m < n → (w.getD m 0).natAbs ≤ windowLevel w) ∧
      (windowLevel w = 0 ∨ ∃ m, m < n ∧ windowLevel w = (w.getD m 0).natAbs) := by
  subst h
  have hget {m : Nat} (hm : m < w.length) : w.getD m 0 = w[m] := by simp [hm]
  refine ⟨fun m hm => natAbs_le_windowLevel (hget hm ▸ List.getElem_mem hm), ?_⟩
  obtain hzero | ⟨v, hv, hlevel⟩ := windowLevel_attained w
  · exact .inl hzero
  · obtain ⟨m, hm, rfl⟩ := List.mem_iff_getElem.1 hv
    exact .inr ⟨m, hm, (hget hm).symm ▸ hlevel⟩

/-! ## The opening of a frame (R34, R43) -/

section
variable {blocks : Nat} {zero : Bool} {x : Canceller}

theorem promoteCanceller_restarted (hb : 1 ≤ blocks) (h : x.state = .off ∨ zero = true) :
    promoteCanceller blocks zero x =
      { x with state := .converging, taps := List.replicate (64 * blocks) 0, convergenceRun := 0, lossRun := 0 } := by
  have hne : blocks ≠ 0 := by omega
  rw [Nat.mul_comm 64]
  by_cases hoff : x.state = .off
  · simp [promoteCanceller, hne, hoff, Config.blockTaps]
  · have hzero : zero = true := h.resolve_left hoff
    simp [promoteCanceller, hne, hoff, hzero, Config.blockTaps]

theorem promoteCanceller_resized (hb : 1 ≤ blocks) (hoff : x.state ≠ .off) (hzero : zero = false) :
    promoteCanceller blocks zero x = if x.taps.length = 64 * blocks then x
      else { x with state := .converging, taps := takePad (64 * blocks) x.taps, convergenceRun := 0, lossRun := 0 } := by
  have hne : blocks ≠ 0 := by omega
  rw [Nat.mul_comm 64]
  simp [promoteCanceller, hne, hoff, hzero, Config.blockTaps]

end

/-- Settles O47. -/
theorem tapsHold : Obligations.TapsHold := by
  unfold Obligations.TapsHold
  refine ⟨fun e active fault line y x => ?taps, fun full delay taps i m hi hm => ?window,
    fun e fault full r i y => ?sample, fun e active fault line y x => ?frame, fun blocks zero x => ?opening⟩
  case taps =>
    rw [cancelFrame_taps]
    refine ⟨fun hheld => ?_, ?_, fun hbounds => ?_⟩
    · rw [foldl_ecSample_held hheld, ite_self]
    · rw [apply_ite List.length, foldl_ecSample_taps_length, ite_self]
    · split
      · exact hbounds
      · exact foldl_ecSample_taps_bounds _ hbounds
  case window => exact ⟨tapWindow_length .., tapWindow_getD _ _ _ hm⟩
  case sample =>
    intro w tap ref acc sat err P g q talks held
    have hlen : w.length = r.taps.length := tapWindow_length ..
    have hpower : windowPower w = P := windowPower_eq hlen
    have hlevel := windowLevel_getD hlen
    have hest : estimate r.taps w = sat ((acc + 4194304) / 8388608) := estimate_eq rfl hlen
    have herr : saturate (y - estimate r.taps w) = err := by rw [hest]; rfl
    have htalks : talks ↔ firesAt e full r.taps.length (i, y) ∨ 0 < r.talk :=
      ecSample_doubleTalk.trans (by simp)
    have hheld : held ↔ ((firesAt e full r.taps.length (i, y) ∨ 0 < r.talk) ∨ e.hostFreeze = true ∨
        windowPower w < e.referenceFloor ∨ fault = true) := by
      rw [hpower, ← htalks]
    refine ⟨?_, hpower, hlevel.1, hlevel.2, ?_, fun h => ecSample_held (hheld.1 h), fun h => ?_⟩
    · exact congrArg (· :: r.errors) herr
    · rw [← hpower]
      exact ecSample_lowReference
    · have htaps : q.taps = List.zipWith (updateTap g) r.taps w := by
        have hupdated : q.taps = List.zipWith (updateTap (stepGain e.stepShift (saturate (y - estimate r.taps w))
          (windowPower w))) r.taps w := ecSample_updated (hheld.not.1 h)
        rw [hupdated, herr, hpower]
        rfl
      refine ⟨by rw [htaps, List.length_zipWith, hlen, Nat.min_self], fun m hm => ?_⟩
      rw [htaps, zipWith_eq_map _ rfl hlen, List.getD_eq_getElem?_getD, List.getElem?_map, List.getElem?_range hm]
      rfl
  case frame =>
    intro full r c figure reference history
    have hhistory : takePad 2048 full = history := takePad_eq_map ..
    have hreference : takePad 80 (full.drop e.bulkDelay) = reference := reference_eq ..
    refine ⟨fun hx => ?_, fun hx => ?_⟩
    · rw [show c = _ from cancelFrame_running e active fault line y hx, ← hhistory]
      exact ⟨rfl, by rw [show figure reference = _ from congrArg figure hreference.symm]; rfl⟩
    · rw [show c = _ from cancelFrame_off e active fault line y hx, ← hhistory]
      exact ⟨rfl, by rw [show figure reference = _ from congrArg figure hreference.symm]; rfl⟩
  case opening =>
    refine ⟨fun hb hx => ?_, fun hb hx => ?_, promoteCanceller_restarted, fun hb hx hz hlen => ?_,
      fun hb hx hz hlen => ?_⟩
    · simp [promoteCanceller, hb, hx]
    · simp [promoteCanceller, hb, hx]
    · rw [promoteCanceller_resized hb hx hz, if_pos hlen]
    · rw [promoteCanceller_resized hb hx hz, if_neg hlen, takePad_eq_map]

/-! ## The runs of the state decision (R33) -/

/-- The state decision after a frame with given figures and hold reasons. -/
def judged (k : SeatNo) (held : Nat) (x : Canceller) (f : Nat × Nat × HoldReasons) : Canceller × List NoticeOut :=
  decideState k held { x with ey := f.1, ee := f.2.1, reasons := f.2.2 }

/-- Frame after frame, with the notices in order. -/
def judgedAll (k : SeatNo) (held : Nat) (a : Canceller × List NoticeOut) (f : Nat × Nat × HoldReasons) :
    Canceller × List NoticeOut := ((judged k held a.1 f).1, a.2 ++ (judged k held a.1 f).2)

section
variable {k : SeatNo} {held : Nat} {x : Canceller} {f : Nat × Nat × HoldReasons}

theorem HoldReasons.any_eq_false_iff (h : HoldReasons) : h.any = false ↔ h = .none := by
  cases h
  simp [HoldReasons.any, HoldReasons.none, and_assoc]

theorem qualifies_iff : x.qualifies = true ↔ x.state ≠ .off ∧ 0 < x.ey ∧ x.reasons = .none := by
  simp only [Canceller.qualifies, Bool.and_eq_true, decide_eq_true_eq, Bool.not_eq_true',
    HoldReasons.any_eq_false_iff, and_assoc, and_congr_right_iff]
  exact fun _ => And.comm

/-- A frame that does not qualify leaves the state and both runs. -/
theorem judged_unqualified (h : x.state = .off ∨ f.1 = 0 ∨ f.2.2 ≠ .none) :
    judged k held x f = ({ x with ey := f.1, ee := f.2.1, reasons := f.2.2 }, []) :=
  if_neg (qualifies_iff.not.2 (by simp only; rintro ⟨hon, hey, hnone⟩; rcases h with h | h | h <;> simp_all))

/-- A qualifying frame of a CONVERGING canceller. -/
theorem judged_converging (hx : x.state = .converging) (hey : 0 < f.1) (hnone : f.2.2 = .none) :
    judged k held x f =
      if 8 * f.2.1 ≤ f.1 then
        if 40 ≤ x.convergenceRun + 1 then
          ({ x with ey := f.1, ee := f.2.1, reasons := f.2.2, state := .tracking, convergenceRun := 0, lossRun := 0 },
            [⟨.ecTracking, .seat k, BitVec.ofNat 32 held, 0, 0⟩])
        else ({ x with ey := f.1, ee := f.2.1, reasons := f.2.2, convergenceRun := x.convergenceRun + 1 }, [])
      else ({ x with ey := f.1, ee := f.2.1, reasons := f.2.2, convergenceRun := 0 }, []) := by
  rw [judged, decideState, if_pos (qualifies_iff.2 ⟨by simp [hx], hey, hnone⟩)]
  simp only [hx]

/-- A qualifying frame of a TRACKING canceller. -/
theorem judged_tracking (hx : x.state = .tracking) (hey : 0 < f.1) (hnone : f.2.2 = .none) :
    judged k held x f =
      if f.1 ≤ f.2.1 then
        if 100 ≤ x.lossRun + 1 then
          ({ x with ey := f.1, ee := f.2.1, reasons := f.2.2, state := .converging, convergenceRun := 0, lossRun := 0 },
            [⟨.ecLost, .seat k, BitVec.ofNat 32 held, 0, 0⟩])
        else ({ x with ey := f.1, ee := f.2.1, reasons := f.2.2, lossRun := x.lossRun + 1 }, [])
      else ({ x with ey := f.1, ee := f.2.1, reasons := f.2.2, lossRun := 0 }, []) := by
  rw [judged, decideState, if_pos (qualifies_iff.2 ⟨by simp [hx], hey, hnone⟩)]
  simp only [hx]

/-- Fewer than 40 good frames in a row are counted. -/
theorem judgedAll_converging {fs : List (Nat × Nat × HoldReasons)}
    (hfs : ∀ f ∈ fs, 0 < f.1 ∧ 8 * f.2.1 ≤ f.1 ∧ f.2.2 = .none) (hx : x.state = .converging) (hrun : x.convergenceRun = 0)
    (hlen : fs.length < 40) :
    let r := fs.foldl (judgedAll k held) (x, [])
    r.1.state = .converging ∧ r.1.convergenceRun = fs.length ∧ r.1.lossRun = x.lossRun ∧ r.1.taps = x.taps ∧
      r.2 = [] := by
  induction fs using List.reverseRecOn with
  | nil => exact ⟨hx, hrun, rfl, rfl, rfl⟩
  | append_singleton fs f ih =>
    obtain ⟨hinit, hlast⟩ := List.forall_mem_append.1 hfs
    obtain ⟨hey, hgood, hnone⟩ := hlast f List.mem_cons_self
    rw [List.length_append, List.length_singleton] at hlen ⊢
    obtain ⟨hstate, hcount, hloss, htaps, hquiet⟩ := ih hinit (by omega)
    rw [List.foldl_append, List.foldl_cons, List.foldl_nil, judgedAll, judged_converging hstate hey hnone, if_pos hgood,
      if_neg (by omega)]
    exact ⟨hstate, congrArg (· + 1) hcount, hloss, htaps, by rw [hquiet, List.append_nil]⟩

/-- Fewer than 100 bad frames in a row are counted. -/
theorem judgedAll_tracking {fs : List (Nat × Nat × HoldReasons)}
    (hfs : ∀ f ∈ fs, 0 < f.1 ∧ f.1 ≤ f.2.1 ∧ f.2.2 = .none) (hx : x.state = .tracking) (hrun : x.lossRun = 0)
    (hlen : fs.length < 100) :
    let r := fs.foldl (judgedAll k held) (x, [])
    r.1.state = .tracking ∧ r.1.lossRun = fs.length ∧ r.1.convergenceRun = x.convergenceRun ∧ r.1.taps = x.taps ∧
      r.2 = [] := by
  induction fs using List.reverseRecOn with
  | nil => exact ⟨hx, hrun, rfl, rfl, rfl⟩
  | append_singleton fs f ih =>
    obtain ⟨hinit, hlast⟩ := List.forall_mem_append.1 hfs
    obtain ⟨hey, hbad, hnone⟩ := hlast f List.mem_cons_self
    rw [List.length_append, List.length_singleton] at hlen ⊢
    obtain ⟨hstate, hcount, hconv, htaps, hquiet⟩ := ih hinit (by omega)
    rw [List.foldl_append, List.foldl_cons, List.foldl_nil, judgedAll, judged_tracking hstate hey hnone, if_pos hbad,
      if_neg (by omega)]
    exact ⟨hstate, congrArg (· + 1) hcount, hconv, htaps, by rw [hquiet, List.append_nil]⟩

end

/-- A run of frames without its last one. -/
theorem exists_last {α : Type} {l : List α} {n : Nat} (h : l.length = n + 1) :
    ∃ init last, l = init ++ [last] ∧ init.length = n := by
  obtain rfl | ⟨init, last, rfl⟩ := List.eq_nil_or_concat' l
  · cases h
  · exact ⟨init, last, rfl, by simpa using h⟩

section
variable {k : SeatNo} {held : Nat} {x : Canceller}

theorem judgedAll_concat (fs : List (Nat × Nat × HoldReasons)) (f : Nat × Nat × HoldReasons) :
    (fs ++ [f]).foldl (judgedAll k held) (x, []) = judgedAll k held (fs.foldl (judgedAll k held) (x, [])) f := by
  rw [List.foldl_append]
  rfl

/-- The 40th good frame in a row meets a count of 39. -/
theorem judgedAll_fortieth {fs : List (Nat × Nat × HoldReasons)}
    (hfs : ∀ f ∈ fs, 0 < f.1 ∧ 8 * f.2.1 ≤ f.1 ∧ f.2.2 = .none) (hx : x.state = .converging) (hrun : x.convergenceRun = 0)
    (hlen : fs.length = 40) :
    let r := fs.foldl (judgedAll k held) (x, [])
    r.1.state = .tracking ∧ r.1.convergenceRun = 0 ∧ r.1.lossRun = 0 ∧ r.1.taps = x.taps ∧
      r.2 = [⟨.ecTracking, .seat k, BitVec.ofNat 32 held, 0, 0⟩] := by
  obtain ⟨init, f, rfl, hinit⟩ := exists_last hlen
  obtain ⟨hgood, hlast⟩ := List.forall_mem_append.1 hfs
  obtain ⟨hey, hee, hnone⟩ := hlast f List.mem_cons_self
  obtain ⟨hstate, hcount, -, htaps, hquiet⟩ := judgedAll_converging (k := k) (held := held) hgood hx hrun (by omega)
  rw [judgedAll_concat, judgedAll, judged_converging hstate hey hnone, if_pos hee, if_pos (by omega)]
  exact ⟨rfl, rfl, rfl, htaps, by rw [hquiet, List.nil_append]⟩

/-- The 100th bad frame in a row meets a count of 99. -/
theorem judgedAll_hundredth {fs : List (Nat × Nat × HoldReasons)}
    (hfs : ∀ f ∈ fs, 0 < f.1 ∧ f.1 ≤ f.2.1 ∧ f.2.2 = .none) (hx : x.state = .tracking) (hrun : x.lossRun = 0)
    (hlen : fs.length = 100) :
    let r := fs.foldl (judgedAll k held) (x, [])
    r.1.state = .converging ∧ r.1.convergenceRun = 0 ∧ r.1.lossRun = 0 ∧ r.1.taps = x.taps ∧
      r.2 = [⟨.ecLost, .seat k, BitVec.ofNat 32 held, 0, 0⟩] := by
  obtain ⟨init, f, rfl, hinit⟩ := exists_last hlen
  obtain ⟨hbad, hlast⟩ := List.forall_mem_append.1 hfs
  obtain ⟨hey, hee, hnone⟩ := hlast f List.mem_cons_self
  obtain ⟨hstate, hcount, -, htaps, hquiet⟩ := judgedAll_tracking (k := k) (held := held) hbad hx hrun (by omega)
  rw [judgedAll_concat, judgedAll, judged_tracking hstate hey hnone, if_pos hee, if_pos (by omega)]
  exact ⟨rfl, rfl, rfl, htaps, by rw [hquiet, List.nil_append]⟩

end

/-- Settles O48. -/
theorem fortyFramesToTracking : Obligations.FortyFramesToTracking := by
  unfold Obligations.FortyFramesToTracking
  intro k held x
  exact ⟨fun fs hfs hx hrun => ⟨judgedAll_converging hfs hx hrun, judgedAll_fortieth hfs hx hrun⟩,
    fun fs hfs hx hrun => ⟨judgedAll_tracking hfs hx hrun, judgedAll_hundredth hfs hx hrun⟩,
    fun f => ⟨fun hx hey hbad hnone => (judged_converging hx hey hnone).trans (if_neg hbad.not_ge),
      fun hx hey hgood hnone => (judged_tracking hx hey hnone).trans (if_neg hgood.not_ge), judged_unqualified⟩⟩

end Sys2Proof.EchoCanceller
end

section
/-! One seat's cadence unit (7.1 to 7.4): its samples, its user and phase at the start of a frame's work, and its phases over
frames. -/

namespace Sys2Proof.Tones

open Sys2Proof.Machine Sys2Proof.EchoCanceller

/-! ## The tone (R129) -/

section
variable {x : Cadence} {u : CadenceUnit}

theorem soundFrame_on (h : u.phase = .on) : soundFrame x u =
    ({ u with position := advancePosition (u.settings x) u.position 80 }, toneFrame (u.settings x) u.position) := by
  rw [soundFrame, h]

theorem soundFrame_quiet (h : u.phase ≠ .on) : soundFrame x u = (u, silence) := by
  rw [soundFrame]
  cases hphase : u.phase <;> simp_all

theorem soundFrame_fallback (x : Cadence) (u : CadenceUnit) : (soundFrame x u).1.fallback = u.fallback := by
  by_cases h : u.phase = .on
  · rw [soundFrame_on h]
  · rw [soundFrame_quiet h]

theorem settings_eq : u.settings x = if u.fallback = true then ⟨true, 20, 4096, 60, 600, false⟩ else x := rfl

theorem toneFrame_getElem? (p i : Nat) (hi : i < 80) :
    (toneFrame x p)[i]? = some (toneAt x ((p + i) % (2 * x.halfPeriod))) := by
  simp [toneFrame, hi, advancePosition]

end

/-- Settles O51. -/
theorem toneSamples : Obligations.ToneSamples := by
  unfold Obligations.ToneSamples
  intro x u half high
  have hhalf : half = (u.settings x).halfPeriod := by
    rw [settings_eq, apply_ite Cadence.halfPeriod]
  have hhigh : high = (u.settings x).amplitude := by
    rw [settings_eq, apply_ite Cadence.amplitude, Nat.cast_ite]
    rfl
  refine ⟨fun hpos hposition hon => ?_, soundFrame_quiet⟩
  rw [soundFrame_on hon, hhalf, hhigh]
  refine ⟨rfl, Nat.mod_lt _ (by omega), by simp [toneFrame], fun i hi => toneFrame_getElem? _ _ hi⟩

/-! ## The user and the phase for a frame (R130, R134, R136) -/

section
variable (x : Cadence) (inHold : Bool) {u : CadenceUnit}

/-- What a start of the reminder leaves (R131). -/
theorem startReminder_eq (u : CadenceUnit) : startReminder x u =
    { u with phase := if x.offFrames = 0 then .on else .off, elapsed := 0
             position := if x.offFrames = 0 then 0 else u.position, fallback := false } := by
  rw [startReminder]
  split <;> rfl

theorem settleUser_stays (h : u.fallback = true) : settleUser x true inHold u = { u with due := none, newPeriod := false } := by
  simp [settleUser, h]

theorem settleUser_begins (h : u.fallback = false) : settleUser x true inHold u = ⟨.on, 0, 0, true, none, false⟩ := by
  simp [settleUser, h, beginFallback]

theorem settleUser_ends (h : u.fallback = true) : settleUser x false inHold u =
    ⟨if inHold = true ∧ x.reminderEnable = true then (if x.offFrames = 0 then .on else .off) else .stopped, 0, 0, false,
      none, false⟩ := by
  simp only [settleUser, h, endFallback, startReminder_eq, Bool.false_eq_true, if_false, if_true, ite_self]
  by_cases hrestart : inHold = true ∧ x.reminderEnable = true
  · simp [hrestart]
  · have hstop : (inHold && x.reminderEnable) = false := by simpa using hrestart
    simp [hrestart, hstop]

theorem settleUser_applies (h : u.fallback = false) : settleUser x false inHold u =
    { applyDue x u with due := none, newPeriod := false } := by
  simp [settleUser, h]

end

/-- The user that a frame's settling gives is FALLBACK exactly when the frame wants it. -/
theorem settleUser_fallback (x : Cadence) (wanted inHold : Bool) (u : CadenceUnit) :
    (settleUser x wanted inHold u).fallback = wanted := by
  cases wanted <;> cases hu : u.fallback
  · rw [settleUser_applies x inHold hu, applyDue]
    split
    · rw [startReminder_eq]
    · exact hu
    · split <;> exact hu
  · rw [settleUser_ends x inHold hu]
  · rw [settleUser_begins x inHold hu]
  · rw [settleUser_stays x inHold hu]
    exact hu

/-! ## The phases (R130) -/

section
variable {x : Cadence} {u : CadenceUnit}

theorem endPhase_on (h : u.phase = .on) : endPhase x u =
    if u.elapsed + 1 < (u.settings x).onFrames then { u with elapsed := u.elapsed + 1 }
    else if (u.settings x).single = true then { u with phase := .stopped, elapsed := 0 }
    else if (u.settings x).offFrames = 0 then { u with elapsed := 0 } else { u with phase := .off, elapsed := 0 } := by
  simp only [endPhase, h, afterOn, ← Nat.not_lt, ite_not]

theorem endPhase_off (h : u.phase = .off) : endPhase x u =
    if u.elapsed + 1 < (u.settings x).offFrames then { u with elapsed := u.elapsed + 1 }
    else { u with phase := .on, elapsed := 0, position := 0 } := by
  simp only [endPhase, h, ← Nat.not_lt, ite_not]

theorem endPhase_stopped (h : u.phase = .stopped) : endPhase x u = u := by
  simp only [endPhase, h]

/-- Inside an ON phase the frames are counted. -/
theorem endPhase_iterate_on (h : u.phase = .on) (hzero : u.elapsed = 0) {n : Nat} (hn : n < (u.settings x).onFrames) :
    (endPhase x)^[n] u = { u with elapsed := n } := by
  induction n with
  | zero => rw [Function.iterate_zero_apply, ← hzero]
  | succ n ih =>
    rw [Function.iterate_succ_apply', ih (by omega), endPhase_on (by exact h)]
    exact if_pos hn

/-- Inside an OFF phase the frames are counted. -/
theorem endPhase_iterate_off (h : u.phase = .off) (hzero : u.elapsed = 0) {n : Nat} (hn : n < (u.settings x).offFrames) :
    (endPhase x)^[n] u = { u with elapsed := n } := by
  induction n with
  | zero => rw [Function.iterate_zero_apply, ← hzero]
  | succ n ih =>
    rw [Function.iterate_succ_apply', ih (by omega), endPhase_off (by exact h)]
    exact if_pos hn

/-- An ON phase gives way after its length. -/
theorem endPhase_after_on (h : u.phase = .on) (hzero : u.elapsed = 0) (hlen : 1 ≤ (u.settings x).onFrames) :
    (endPhase x)^[(u.settings x).onFrames] u =
      if (u.settings x).single = true then { u with phase := .stopped }
      else if (u.settings x).offFrames = 0 then u else { u with phase := .off } := by
  obtain ⟨n, hn⟩ := Nat.exists_eq_add_of_le' hlen
  rw [hn, Function.iterate_succ_apply', endPhase_iterate_on h hzero (by omega), endPhase_on (by exact h)]
  have hu : { u with elapsed := 0 } = u := by rw [← hzero]
  have hset : CadenceUnit.settings { u with elapsed := n } x = u.settings x := rfl
  rw [hset, if_neg (by simp only; omega)]
  split_ifs
  · rw [← hzero]
  · exact hu
  · rw [← hzero]

theorem endPhase_after_off (h : u.phase = .off) (hzero : u.elapsed = 0) (hlen : 1 ≤ (u.settings x).offFrames) :
    (endPhase x)^[(u.settings x).offFrames] u = { u with phase := .on, position := 0 } := by
  obtain ⟨n, hn⟩ := Nat.exists_eq_add_of_le' hlen
  rw [hn, Function.iterate_succ_apply', endPhase_iterate_off h hzero (by omega), endPhase_off (by exact h)]
  have hset : CadenceUnit.settings { u with elapsed := n } x = u.settings x := rfl
  rw [hset, if_neg (by simp only; omega), ← hzero]

end

/-- Settles O50. -/
theorem cadencePhases : Obligations.CadencePhases := by
  unfold Obligations.CadencePhases
  refine ⟨fun x u => ?phases, fun x u => ⟨endPhase_on, endPhase_off⟩, fun x wanted inHold u => ?settles,
    fun k kept i x => ?seat, fun e k x io => rfl⟩
  case phases =>
    intro y hzero hon
    exact ⟨fun h n => endPhase_iterate_on h hzero, fun h => endPhase_after_on h hzero hon,
      fun h hoff => ⟨fun n => endPhase_iterate_off h hzero, endPhase_after_off h hzero hoff⟩,
      fun h n => Function.iterate_fixed (endPhase_stopped h) n⟩
  case settles =>
    refine ⟨?stays, ?begins, ?ends, ?applies⟩
    case stays =>
      rintro rfl hu
      exact settleUser_stays x inHold hu
    case begins =>
      rintro rfl hu
      exact settleUser_begins x inHold hu
    case ends =>
      rintro rfl hu
      exact settleUser_ends x inHold hu
    case applies =>
      rintro rfl hu
      rw [settleUser_applies x inHold hu]
      refine ⟨fun hdue => ?_, fun hdue => ?_, fun hdue => ?_⟩
      · simp only [applyDue, hdue, startReminder_eq]
      · simp only [applyDue, hdue, stopReminder, hu]
      · simp only [applyDue, hdue, Bool.and_eq_true, decide_eq_true_eq]
        split <;> simp only [hu]
  case seat =>
    intro g held t
    have hunit : settleUser g.cadence (i.standalone && decide held && i.stream.isNone) (decide held) x.cadence = t := by
      congr 1
      rw [Bool.eq_iff_iff]
      simp [and_assoc]
    have hcadence : (seatAudio k kept i x).seat.cadence = (soundFrame g.cadence t).1 := by
      rw [← hunit]
      rfl
    refine ⟨hcadence, ?_⟩
    rw [hcadence, soundFrame_fallback, settleUser_fallback, decide_eq_true_eq]

end Sys2Proof.Tones
end

section
/-! One seat's frame work (8.1): its inputs, its status and key mute flag, the voice gates, and the two buses, sample by
sample.  Every bus is an exact sum of terms of 80 samples (`busSums_getD`). -/

namespace Sys2Proof.SeatBuses

open Sys2Proof.Machine Sys2Proof.EchoCanceller Sys2Proof.Tones

/-! ## Exact sums (R145) -/

@[simp] theorem silence_length : silence.length = 80 := List.length_replicate

theorem silence_getD (n : Nat) : silence.getD n 0 = 0 := by
  rw [silence, List.getD_eq_getElem?_getD, List.getElem?_replicate]
  split <;> rfl

theorem addFrames_length {xs ys : List Int} (hx : xs.length = 80) (hy : ys.length = 80) : (addFrames xs ys).length = 80 := by
  simp [addFrames, hx, hy]

theorem addFrames_getD {xs ys : List Int} {n : Nat} (hx : xs.length = 80) (hy : ys.length = 80) (hn : n < 80) :
    (addFrames xs ys).getD n 0 = xs.getD n 0 + ys.getD n 0 := by
  simp [addFrames, hx, hy, hn]

theorem foldl_addFrames {ts : List (List Int)} (h : ∀ t ∈ ts, t.length = 80) {xs : List Int} (hx : xs.length = 80) :
    (ts.foldl addFrames xs).length = 80 ∧
      ∀ n, n < 80 → (ts.foldl addFrames xs).getD n 0 = xs.getD n 0 + (ts.map fun t => t.getD n 0).sum := by
  induction ts generalizing xs with
  | nil => exact ⟨hx, fun n _ => (Int.add_zero _).symm⟩
  | cons t ts ih =>
    obtain ⟨ht, hts⟩ := List.forall_mem_cons.1 h
    obtain ⟨hlen, hsum⟩ := ih hts (addFrames_length hx ht)
    refine ⟨hlen, fun n hn => ?_⟩
    rw [List.foldl_cons, hsum n hn, addFrames_getD hx ht hn, List.map_cons, List.sum_cons, Int.add_assoc]

theorem busSums_length {ts : List (List Int)} (h : ∀ t ∈ ts, t.length = 80) : (busSums ts).length = 80 :=
  (foldl_addFrames h silence_length).1

/-- A bus is the exact sum of its terms. -/
theorem busSums_getD {ts : List (List Int)} {n : Nat} (h : ∀ t ∈ ts, t.length = 80) (hn : n < 80) :
    (busSums ts).getD n 0 = (ts.map fun t => t.getD n 0).sum := by
  refine ((foldl_addFrames h silence_length).2 n hn).trans ?_
  rw [silence_getD, Int.zero_add]

/-- A bus of one term is that term. -/
theorem busSums_singleton {t : List Int} (h : t.length = 80) : busSums [t] = t := by
  refine List.ext_getElem (addFrames_length silence_length h |>.trans h.symm) fun i _ _ => ?_
  simp [busSums, addFrames, silence]

theorem busSample_zero : busSample 0 = 0 := by decide

theorem silence_map_busSample : silence.map busSample = silence := by
  rw [silence, List.map_replicate, busSample_zero]

theorem map_getD {f : Int → Int} (l : List Int) (n : Nat) (hf : f 0 = 0) : (l.map f).getD n 0 = f (l.getD n 0) := by
  rw [List.getD_eq_getElem?_getD, List.getElem?_map, List.getD_eq_getElem?_getD]
  cases l[n]? <;> simp [hf]

theorem term_getD (xs : List Int) (gain n : Nat) : (term xs gain).getD n 0 = xs.getD n 0 * gain :=
  map_getD xs n (Int.zero_mul _)

@[simp] theorem term_length (xs : List Int) (gain : Nat) : (term xs gain).length = xs.length := List.length_map ..

@[simp] theorem custTerm_length (xs : List Int) (gain old new : Nat) : (custTerm xs gain old new).length = xs.length := by
  simp [custTerm]

theorem custTerm_getD {xs : List Int} {n : Nat} (gain old new : Nat) (hn : n < xs.length) :
    (custTerm xs gain old new).getD n 0 = xs.getD n 0 * effectiveGain gain old new n := by
  simp [custTerm, hn]

/-! ## Lengths of a frame's samples -/

theorem suppressFrame_length (c : Noise) (present : Bool) (x : Suppressor) {xs : List Sample} (h : xs.length = 80) :
    (suppressFrame c present x xs).2.length = 80 := by
  rw [suppressFrame]
  split
  · simp [presentFrame, h]
  · exact silence_length

theorem sentVoice_length (hostMute keyMute present : Bool) {xs : List Sample} (h : xs.length = 80) :
    (sentVoice hostMute keyMute present xs).length = 80 := by
  rw [sentVoice]
  split
  · exact h
  · exact silence_length

theorem foldl_ecSample_errors (e : Echo) (fault : Bool) (full : List Sample) (ys : List (Nat × Sample)) (r : EcRun) :
    (ys.foldl (ecSample e fault full) r).errors.length = ys.length + r.errors.length := by
  induction ys generalizing r with
  | nil => simp
  | cons y ys ih =>
    have hone : (ecSample e fault full r y).errors.length = r.errors.length + 1 := rfl
    rw [List.foldl_cons, ih, hone, List.length_cons]
    omega

theorem cancelFrame_length (e : Echo) (active fault : Bool) (line y : List Sample) (x : Canceller) :
    (cancelFrame e active fault line y x).2.length = y.length := by
  by_cases hx : x.state = .off
  · rw [cancelFrame_off e active fault line y hx]
  · rw [cancelFrame_running e active fault line y hx, List.length_reverse, foldl_ecSample_errors]
    simp

theorem residual_length (e : Echo) (tracking voice talk : Bool) (xs : List Sample) :
    (Machine.residual e tracking voice talk xs).length = xs.length := by
  rw [Machine.residual]
  split <;> simp

theorem soundFrame_length (c : Cadence) (u : CadenceUnit) : (soundFrame c u).2.length = 80 := by
  by_cases h : u.phase = .on
  · rw [soundFrame_on h]
    simp [toneFrame]
  · rw [soundFrame_quiet h]
    exact silence_length

/-! ## The gates and the whisper path (R76, R77, R79) -/

section
variable (kept : SeatNo → Kept) (l : List Attachment)

theorem gateOn_eq (a : Attachment) : gateOn a (kept a.seat) = gateIsOn kept a := by
  cases h : a.kind <;> simp [gateOn, gateIsOn, h]

theorem gatedVoices_eq (p : Attachment → Bool) : gatedVoices (gatesOf kept l) p =
    (l.filter fun a => gateIsOn kept a && p a).map fun a => (kept a.seat).sent := by
  simp only [gatedVoices, gatesOf, List.filter_map, List.map_map, Function.comp_def, gateOn_eq]

theorem bargeVoices_eq : bargeVoices (gatesOf kept l) =
    (l.filter fun a => decide (a.kind = .barge) && gateIsOn kept a).map fun a => (kept a.seat).sent := by
  simp only [bargeVoices, gatedVoices_eq, Bool.and_comm]

theorem anyGate_iff : anyGate (gatesOf kept l) = true ↔ l.filter (gateIsOn kept) ≠ [] := by
  simp only [anyGate, gatesOf, List.any_map, List.any_eq_true, Function.comp_apply, gateOn_eq, ne_eq,
    List.filter_eq_nil_iff]
  push Not
  rfl

/-- The whisper path is a bus: the gated voices, and the prompt when it plays. -/
theorem whisperPath_eq (prompt : Option (List Sample)) : whisperPath (gatesOf kept l) prompt =
    busSums ((l.filter (gateIsOn kept)).map (fun a => (kept a.seat).sent) ++ prompt.toList) := by
  simp only [whisperPath, gatedVoices_eq, Bool.and_true, busSums]

end

/-! ## What a seat leaves in a frame -/

section
variable {k : SeatNo} {kept : SeatNo → Kept} {i : SeatInputs} {x : Seat}

/-- FALLBACK use in a frame: HOLD in stand-alone operation with no stream playing (R134). -/
theorem cadence_fallback : (seatAudio k kept i x).seat.cadence.fallback =
    (i.standalone && decide (x.governing.routing.mode = .hold) && i.stream.isNone) :=
  (soundFrame_fallback ..).trans (settleUser_fallback ..)

/-- The voice of a frame that reaches the customer: MIC_out, or silence (R17). -/
theorem kept_sent : (seatAudio k kept i x).seat.kept.sent = sentVoice x.governing.routing.hostMute
    (seatAudio k kept i x).seat.keyMute i.status.present
    (suppressFrame x.governing.noise i.status.present x.suppressor i.mic).2 := rfl

theorem kept_sent_length (hmic : i.mic.length = 80) : (seatAudio k kept i x).seat.kept.sent.length = 80 :=
  sentVoice_length _ _ _ (suppressFrame_length _ _ _ hmic)

theorem kept_cust_length (hy : i.y.length = 80) : (seatAudio k kept i x).seat.kept.cust.length = 80 :=
  ((residual_length ..).trans (cancelFrame_length ..)).trans hy

/-- The tone of a frame. -/
def toneOf (i : SeatInputs) (x : Seat) : List Sample :=
  (soundFrame x.governing.cadence (settleUser x.governing.cadence
    (i.standalone && decide (x.governing.routing.mode = .hold) && i.stream.isNone)
    (decide (x.governing.routing.mode = .hold)) x.cadence)).2

theorem toneOf_length : (toneOf i x).length = 80 := soundFrame_length ..

/-- LINE is the bus of its terms. -/
theorem mixer_line : (seatAudio k kept i x).seat.mixer.line =
    (busSums (lineTerms x.governing (seatAudio k kept i x).seat.kept.sent (gatesOf kept x.governing.supervisors)
      (i.standalone && decide (x.governing.routing.mode = .hold) && i.stream.isNone) (toneOf i x) i.stream)).map
      busSample := by
  have hfallback : (settleUser x.governing.cadence
      (i.standalone && decide (x.governing.routing.mode = .hold) && i.stream.isNone)
      (decide (x.governing.routing.mode = .hold)) x.cadence).fallback = _ := settleUser_fallback ..
  rw [← hfallback]
  rfl

/-- The effect of the gates on the prompt: the first cell plays when it is due and the ruling lets it (R82). -/
theorem plays_iff : (seatAudio k kept i x).plays = true ↔ x.prompt.due = true ∧ x.arbiter.quiet = 20 ∧
    x.governing.supervisors.filter (gateIsOn kept) = [] := by
  have hgate : anyGate (gatesOf kept x.governing.supervisors) = false ↔
      x.governing.supervisors.filter (gateIsOn kept) = [] := by
    rw [← Bool.not_eq_true, anyGate_iff, not_not]
  have hplays : (seatAudio k kept i x).plays =
      (x.prompt.due && ruling (anyGate (gatesOf kept x.governing.supervisors)) x.arbiter.quiet) := rfl
  rw [hplays, ruling, Bool.and_eq_true, Bool.and_eq_true, decide_eq_true_eq, Bool.not_eq_true', hgate]

theorem mixer_whisper : (seatAudio k kept i x).seat.mixer.whisper =
    (anyGate (gatesOf kept x.governing.supervisors) || (seatAudio k kept i x).plays) := rfl

/-- The whisper path is active when a gate is on or the prompt plays (R78). -/
theorem mixer_whisper_iff : (seatAudio k kept i x).seat.mixer.whisper = true ↔
    x.governing.supervisors.filter (gateIsOn kept) ≠ [] ∨ (seatAudio k kept i x).plays = true := by
  rw [mixer_whisper, Bool.or_eq_true, anyGate_iff]

/-- The prompt's samples of a frame, when it plays. -/
def promptPart (k : SeatNo) (kept : SeatNo → Kept) (i : SeatInputs) (x : Seat) : Option (List Sample) :=
  if (seatAudio k kept i x).plays then some x.prompt.buffer else none

/-- EAR is the bus of its terms. -/
theorem mixer_ear : (seatAudio k kept i x).seat.mixer.ear =
    (busSums (earTerms x.governing kept (seatAudio k kept i x).seat.kept.cust
      (suppressFrame x.governing.noise i.status.present x.suppressor i.mic).2
      (whisperPath (gatesOf kept x.governing.supervisors) (promptPart k kept i x))
      x.arbiter.duck (seatAudio k kept i x).seat.arbiter.duck
      (i.standalone && decide (x.governing.routing.mode = .hold) && i.stream.isNone) (toneOf i x))).map busSample := by
  have hfallback : (settleUser x.governing.cadence
      (i.standalone && decide (x.governing.routing.mode = .hold) && i.stream.isNone)
      (decide (x.governing.routing.mode = .hold)) x.cadence).fallback = _ := settleUser_fallback ..
  rw [← hfallback]
  rfl

end

/-! ## LINE (R19) -/

section
variable (k : SeatNo) (kept : SeatNo → Kept) (i : SeatInputs) (x : Seat)

theorem mixer_line_quiet (h : x.governing.routing.mode = .idle ∨ x.governing.routing.mode = .supervise) :
    (seatAudio k kept i x).seat.mixer.line = silence := by
  have hterms : ∀ sent gates fallback tone stream, lineTerms x.governing sent gates fallback tone stream = [] := by
    intro sent gates fallback tone stream
    rcases h with h | h <;> simp [lineTerms, h]
  rw [mixer_line, hterms]
  exact silence_map_busSample

/-- LINE in TALK: the sent voice, and the barge voices of the frame before (R79). -/
theorem mixer_line_talk (hmode : x.governing.routing.mode = .talk) (hmic : i.mic.length = 80)
    (hkept : ∀ a ∈ x.governing.supervisors, (kept a.seat).sent.length = 80) :
    (seatAudio k kept i x).seat.mixer.line.length = 80 ∧ ∀ n, n < 80 → (seatAudio k kept i x).seat.mixer.line.getD n 0 =
      busSample ((seatAudio k kept i x).seat.kept.sent.getD n 0 * x.governing.levels.mic +
        ((x.governing.supervisors.filter fun q => decide (q.kind = .barge) && gateIsOn kept q).map fun q =>
          (kept q.seat).sent.getD n 0 * x.governing.levels.barge).sum) := by
  have hterms : ∀ fallback tone stream, lineTerms x.governing (seatAudio k kept i x).seat.kept.sent
      (gatesOf kept x.governing.supervisors) fallback tone stream =
        term (seatAudio k kept i x).seat.kept.sent x.governing.levels.mic ::
          (bargeVoices (gatesOf kept x.governing.supervisors)).map fun v => term v x.governing.levels.barge := by
    intro fallback tone stream
    rw [lineTerms, hmode]
  have hlen : ∀ t ∈ term (seatAudio k kept i x).seat.kept.sent x.governing.levels.mic ::
      (bargeVoices (gatesOf kept x.governing.supervisors)).map (fun v => term v x.governing.levels.barge),
      t.length = 80 := by
    rw [bargeVoices_eq, List.map_map]
    refine List.forall_mem_cons.2 ⟨(term_length ..).trans (kept_sent_length hmic), fun t ht => ?_⟩
    obtain ⟨a, ha, rfl⟩ := List.mem_map.1 ht
    exact (term_length ..).trans (hkept a (List.mem_of_mem_filter ha))
  rw [mixer_line, hterms]
  refine ⟨(List.length_map _).trans (busSums_length hlen), fun n hn => ?_⟩
  rw [map_getD _ _ busSample_zero, busSums_getD hlen hn, List.map_cons, List.sum_cons, term_getD, bargeVoices_eq,
    List.map_map, List.map_map]
  simp only [Function.comp_def, term_getD]

/-- LINE in HOLD: the fallback tone, or the stream's buffer, or silence (R135). -/
theorem mixer_line_hold (hmode : x.governing.routing.mode = .hold) : (seatAudio k kept i x).seat.mixer.line =
    (busSums (if i.standalone && i.stream.isNone then [term (toneOf i x) Config.unity]
      else (i.stream.map fun b => term b x.governing.levels.hold).toList)).map busSample := by
  rw [mixer_line, lineTerms, hmode]
  simp

end

/-! ## The inputs (R14, R141, R142) -/

theorem slotSamples_length (cycles : List (Vector Sample 32)) (k : SlotNo) : (slotSamples cycles k).length = 80 :=
  takePad_length ..

theorem slotSamples_getD (cycles : List (Vector Sample 32)) (k : SlotNo) {n : Nat} (h : n < 80) :
    (slotSamples cycles k).getD n 0 = (cycles.map fun row => row[k]).getD n 0 := takePad_getD _ h

theorem slotNumbered_length (cycles : List (Vector Sample 32)) (n : Option Nat) : (slotNumbered cycles n).length = 80 := by
  cases n with
  | none => exact silence_length
  | some n =>
    by_cases hn : n < 32
    · exact (congrArg List.length (dif_pos hn)).trans (slotSamples_length ..)
    · exact (congrArg List.length (dif_neg hn)).trans silence_length

theorem slotNumbered_some (cycles : List (Vector Sample 32)) (m : SlotNo) :
    slotNumbered cycles (some m.val) = slotSamples cycles m := dif_pos m.isLt

/-- The stream that a seat hears is the one it names, while that one plays (R96). -/
theorem streamPlaying_eq_some (streams : Vector Stream 16) (n : Nat) (b : List Sample) :
    streamPlaying streams n = some b ↔
      ∃ j : StreamNo, n = j.val ∧ streams[j].playing = true ∧ streams[j].buffer = b := by
  rw [streamPlaying]
  by_cases hn : n < 16
  · rw [dif_pos hn]
    constructor
    · intro h
      split at h
      · next hplaying => exact ⟨⟨n, hn⟩, rfl, hplaying, Option.some.inj h⟩
      · cases h
    · rintro ⟨j, rfl, hplaying, rfl⟩
      exact if_pos hplaying
  · rw [dif_neg hn]
    refine ⟨fun h => (Option.some_ne_none _ h.symm).elim, ?_⟩
    rintro ⟨j, rfl, -⟩
    exact absurd j.isLt hn

theorem slot_of_holds {g : Settings} (h : g.routing.mode = .talk ∨ g.routing.mode = .hold) : g.slot = g.routing.nhSlot :=
  if_pos (by rcases h with h | h <;> rw [h] <;> rfl)

theorem slot_of_not_holds {g : Settings} (h : g.routing.mode = .idle ∨ g.routing.mode = .supervise) : g.slot = none :=
  if_neg (by rcases h with h | h <;> rw [h] <;> decide)

/-! ## Status, keys and notices (R14, R16) -/

theorem nextKeyMute_eq (allowed : Bool) (old new : Status) (flag : Bool) : nextKeyMute allowed old new flag =
    if (new.muteKey = true ∧ old.muteKey = false) ∧ allowed = true then !flag else flag := by
  simp [nextKeyMute]

/-- Settles O44. -/
theorem lineOfCallSeat : Obligations.LineOfCallSeat := by
  unfold Obligations.LineOfCallSeat
  refine ⟨fun k kept i x hmic hkept hstream => ?line, fun s k => ?inputs, fun k kept i x => ?hands⟩
  case line =>
    refine ⟨mixer_line_quiet k kept i x, fun hmode => mixer_line_talk k kept i x hmode hmic hkept,
      fun hmode b hb => ?playing, fun hmode hnone halone => ?fallback, fun hmode hnone halone => ?silent,
      fun hmuted => ?muted, fun hhost hkey hpresent => ?heard⟩
    case playing =>
      rw [mixer_line_hold k kept i x hmode, hb]
      simp only [Option.isNone_some, Bool.and_false, Bool.false_eq_true, if_false, Option.map_some, Option.toList_some]
      rw [busSums_singleton ((term_length ..).trans (hstream b hb)), term, List.map_map]
      rfl
    case fallback =>
      refine ⟨by rw [cadence_fallback, hmode, hnone, halone]; rfl, ?_⟩
      have htone : toneOf i x = (soundFrame x.governing.cadence (settleUser x.governing.cadence true true x.cadence)).2 := by
        rw [toneOf, hmode, hnone, halone]
        rfl
      rw [mixer_line_hold k kept i x hmode, hnone, halone, ← htone]
      simp only [Option.isNone_none, Bool.and_self, if_true]
      rw [busSums_singleton ((term_length ..).trans toneOf_length), term, List.map_map]
      rfl
    case silent =>
      rw [mixer_line_hold k kept i x hmode, hnone, halone]
      exact silence_map_busSample
    case muted =>
      have hsilent : (!x.governing.routing.hostMute && !(seatAudio k kept i x).seat.keyMute && i.status.present) = false := by
        rcases hmuted with h | h | h <;> simp [h]
      have honAir : (seatAudio k kept i x).seat.mixer.onAir = (decide (x.governing.routing.mode = .talk) &&
        (!x.governing.routing.hostMute && !(seatAudio k kept i x).seat.keyMute && i.status.present)) := rfl
      exact ⟨if_neg (Bool.eq_false_iff.1 hsilent), by rw [honAir, hsilent, Bool.and_false]⟩
    case heard =>
      have honAir : (seatAudio k kept i x).seat.mixer.onAir = (decide (x.governing.routing.mode = .talk) &&
        (!x.governing.routing.hostMute && !(seatAudio k kept i x).seat.keyMute && i.status.present)) := rfl
      rw [kept_sent, honAir, hhost, hkey, hpresent]
      exact ⟨rfl, Bool.and_true _⟩
  case inputs =>
    have hy : (seatInputs s k).y = slotNumbered s.nh.ys s.seats[k].governing.slot := rfl
    refine ⟨rfl, rfl, rfl, rfl, rfl, slotSamples_length .., slotNumbered_length .., fun n hn => slotSamples_getD _ _ hn,
      fun m hmode hslot n hn => ?_, fun hmode => ?_, streamPlaying_eq_some _ _⟩
    · rw [hy, slot_of_holds hmode, hslot, slotNumbered_some]
      exact slotSamples_getD _ _ hn
    · rw [hy, slot_of_not_holds hmode]
      rfl
  case hands =>
    refine ⟨rfl, nextKeyMute_eq .., ?_⟩
    have hnotices : (seatAudio k kept i x).notices = statusNotices k (seatAudio k kept i x).seat.keyMute
      x.governing.routing.keyMuteAllowed x.status i.status ++ (decideState k x.blocks.length
        (cancelFrame x.governing.echo x.governing.routing.mode.holdsSlot i.fault x.mixer.line i.y x.canceller).1).2 := rfl
    rw [hnotices, statusNotices]
    simp only [Bool.and_eq_true, Bool.not_eq_true', bne_iff_ne, ne_eq, flagWord, and_comm (a := x.status.present = true)]

/-! ## EAR (R20) -/

section
variable {g : Settings} {kept : SeatNo → Kept} {cust micOut tone : List Sample} {path : List Int}

/-- Every term of EAR has 80 samples when the frames it draws on have. -/
theorem earTerms_length (old new : Nat) (fallback : Bool) (hcust : cust.length = 80) (hmic : micOut.length = 80)
    (htone : tone.length = 80) (hpath : path.length = 80)
    (htarget : ∀ t : SeatNo, g.attachedTo = some t → (kept t).cust.length = 80 ∧ (kept t).sent.length = 80) :
    ∀ t ∈ earTerms g kept cust micOut path old new fallback tone, t.length = 80 := by
  have halways : ∀ t ∈ [term path g.levels.whisper, term micOut g.levels.side], t.length = 80 := by
    simp [hpath, hmic]
  unfold earTerms
  cases g.routing.mode with
  | idle => exact halways
  | talk => exact List.forall_mem_cons.2 ⟨(custTerm_length ..).trans hcust, halways⟩
  | hold =>
    cases fallback
    · exact List.forall_mem_cons.2 ⟨(term_length ..).trans htone, halways⟩
    · exact halways
  | supervise =>
    cases ht : g.attachedTo with
    | none => exact halways
    | some t =>
      obtain ⟨hc, hs⟩ := htarget t ht
      exact List.forall_mem_cons.2 ⟨(term_length ..).trans (addFrames_length hc hs), halways⟩

end

section
variable {k : SeatNo} {kept : SeatNo → Kept} {i : SeatInputs} {x : Seat}

theorem gatedPath_length (hkept : ∀ a ∈ x.governing.supervisors, (kept a.seat).sent.length = 80)
    (hprompt : x.prompt.buffer.length = 80) :
    ∀ t ∈ (x.governing.supervisors.filter (gateIsOn kept)).map (fun a => (kept a.seat).sent) ++
      (promptPart k kept i x).toList, t.length = 80 := by
  refine List.forall_mem_append.2 ⟨fun t ht => ?_, fun t ht => ?_⟩
  · obtain ⟨a, ha, rfl⟩ := List.mem_map.1 ht
    exact hkept a (List.mem_of_mem_filter ha)
  · rw [promptPart] at ht
    split at ht <;> simp_all

/-- The whisper path, sample by sample. -/
theorem whisperPath_getD (hkept : ∀ a ∈ x.governing.supervisors, (kept a.seat).sent.length = 80)
    (hprompt : x.prompt.buffer.length = 80) {n : Nat} (hn : n < 80) :
    (whisperPath (gatesOf kept x.governing.supervisors) (promptPart k kept i x)).getD n 0 =
      ((x.governing.supervisors.filter (gateIsOn kept)).map fun q => (kept q.seat).sent.getD n 0).sum +
        if (seatAudio k kept i x).plays = true then x.prompt.buffer.getD n 0 else 0 := by
  rw [whisperPath_eq, busSums_getD (gatedPath_length hkept hprompt) hn, List.map_append, List.sum_append, List.map_map]
  refine congrArg (_ + ·) ?_
  rw [promptPart]
  split <;> simp

/-- The frames that EAR draws on are whole. -/
theorem ear_terms_length (hmic : i.mic.length = 80) (hy : i.y.length = 80)
    (hkept : ∀ a ∈ x.governing.supervisors, (kept a.seat).sent.length = 80) (hprompt : x.prompt.buffer.length = 80)
    (htarget : ∀ t : SeatNo, x.governing.attachedTo = some t → (kept t).cust.length = 80 ∧ (kept t).sent.length = 80)
    (fallback : Bool) :
    ∀ t ∈ earTerms x.governing kept (seatAudio k kept i x).seat.kept.cust
      (suppressFrame x.governing.noise i.status.present x.suppressor i.mic).2
      (whisperPath (gatesOf kept x.governing.supervisors) (promptPart k kept i x))
      x.arbiter.duck (seatAudio k kept i x).seat.arbiter.duck fallback (toneOf i x), t.length = 80 :=
  earTerms_length _ _ _ (kept_cust_length hy) (suppressFrame_length _ _ _ hmic) toneOf_length
    (by rw [whisperPath_eq]; exact busSums_length (gatedPath_length hkept hprompt)) htarget

theorem mixer_ear_length (hmic : i.mic.length = 80) (hy : i.y.length = 80)
    (hkept : ∀ a ∈ x.governing.supervisors, (kept a.seat).sent.length = 80) (hprompt : x.prompt.buffer.length = 80)
    (htarget : ∀ t : SeatNo, x.governing.attachedTo = some t → (kept t).cust.length = 80 ∧ (kept t).sent.length = 80) :
    (seatAudio k kept i x).seat.mixer.ear.length = 80 := by
  rw [mixer_ear, List.length_map]
  exact busSums_length (ear_terms_length hmic hy hkept hprompt htarget _)

end

/-- The terms of EAR in the modes that add one to the two that every mode has. -/
theorem earTerms_sum (g : Settings) (kept : SeatNo → Kept) (cust micOut path : List Int) (old new : Nat) (fallback : Bool)
    (tone : List Int) (n : Nat) :
    ((earTerms g kept cust micOut path old new fallback tone).map fun t => t.getD n 0).sum =
      (match g.routing.mode with
        | .idle => 0
        | .talk => (custTerm cust g.levels.cust old new).getD n 0
        | .hold => if fallback then 0 else (term tone Config.unity).getD n 0
        | .supervise =>
          match g.attachedTo with
          | none => 0
          | some t => (term (addFrames (kept t).cust (kept t).sent) g.levels.listen).getD n 0) +
      (path.getD n 0 * g.levels.whisper + micOut.getD n 0 * g.levels.side) := by
  have halways : ([term path g.levels.whisper, term micOut g.levels.side].map fun t => t.getD n 0).sum =
      path.getD n 0 * g.levels.whisper + micOut.getD n 0 * g.levels.side := by
    simp only [List.map_cons, List.map_nil, List.sum_cons, List.sum_nil, term_getD, Int.add_zero]
  unfold earTerms
  cases g.routing.mode with
  | idle => exact halways.trans (Int.zero_add _).symm
  | talk => exact congrArg (_ + ·) halways
  | hold =>
    cases fallback
    · exact congrArg (_ + ·) halways
    · exact halways.trans (Int.zero_add _).symm
  | supervise =>
    cases g.attachedTo
    · exact halways.trans (Int.zero_add _).symm
    · exact congrArg (_ + ·) halways

/-- Settles O45. -/
theorem earOfSeat : Obligations.EarOfSeat := by
  unfold Obligations.EarOfSeat
  intro k kept i x hmic hy hkept hprompt htarget g a micOut tone gated plays active path always
  have hplays : (seatAudio k kept i x).plays = true ↔ plays := plays_iff
  have hwhisper : a.mixer.whisper = true ↔ active := mixer_whisper_iff.trans (or_congr_right hplays)
  have hactive : a.arbiter.active = a.mixer.whisper := rfl
  have hduck : a.arbiter.duck = duckTarget a.mixer.whisper g.levels.duck := rfl
  have hpath : ∀ n, n < 80 → (whisperPath (gatesOf kept g.supervisors) (promptPart k kept i x)).getD n 0 = path n := by
    intro n hn
    rw [whisperPath_getD hkept hprompt hn]
    exact congrArg (_ + ·) (if_congr hplays rfl rfl)
  have hear : ∀ n, n < 80 → a.mixer.ear.getD n 0 = busSample ((match g.routing.mode with
      | .idle => 0
      | .talk => (custTerm a.kept.cust g.levels.cust x.arbiter.duck a.arbiter.duck).getD n 0
      | .hold =>
        if i.standalone && decide (g.routing.mode = .hold) && i.stream.isNone then 0
        else (term (toneOf i x) Config.unity).getD n 0
      | .supervise =>
        match g.attachedTo with
        | none => 0
        | some t => (term (addFrames (kept t).cust (kept t).sent) g.levels.listen).getD n 0) + always n) := by
    intro n hn
    change (seatAudio k kept i x).seat.mixer.ear.getD n 0 = _
    rw [mixer_ear, map_getD _ _ busSample_zero, busSums_getD (ear_terms_length hmic hy hkept hprompt htarget _) hn,
      earTerms_sum, hpath n hn]
  refine ⟨hplays, hwhisper, hactive ▸ hwhisper, ?duck, mixer_ear_length hmic hy hkept hprompt htarget, fun n hn => ?samples⟩
  case duck =>
    rw [hduck, duckTarget]
    exact if_congr hwhisper rfl rfl
  case samples =>
    have hsample := hear n hn
    refine ⟨?quiet, ?inTalk, ?reminding, ?sounding, ?listening⟩
    case quiet =>
      rintro (hmode | ⟨hmode, hnone⟩)
      · rw [hsample]
        simp only [hmode, Int.zero_add]
      · rw [hsample]
        simp only [hmode, hnone, Int.zero_add]
    case inTalk =>
      intro hmode
      have hcust : n < a.kept.cust.length := by rw [kept_cust_length hy]; exact hn
      rw [hsample]
      simp only [hmode, custTerm_getD _ _ _ hcust]
    case reminding =>
      intro hmode hreminder
      have hplain : (i.standalone && i.stream.isNone) = false := by
        rcases hreminder with h | h
        · simp [h]
        · simp [Option.isNone_eq_false_iff, Option.isSome_iff_ne_none.2 h]
      have htone : toneOf i x = tone := by
        have hheld : x.governing.routing.mode = .hold := hmode
        simp only [toneOf, hheld, decide_true, Bool.and_true, hplain]
        rfl
      rw [hsample]
      simp only [hmode, decide_true, Bool.and_true, hplain, Bool.false_eq_true, if_false, term_getD, htone]
      rfl
    case sounding =>
      intro hmode halone hnone
      rw [hsample]
      simp only [hmode, decide_true, halone, hnone, Option.isNone_none, Bool.and_self, if_true, Int.zero_add]
    case listening =>
      intro t hmode ht
      obtain ⟨hc, hs⟩ := htarget t ht
      rw [hsample]
      simp only [hmode, ht, term_getD, addFrames_getD hc hs hn]

end Sys2Proof.SeatBuses
end

section
/-! The bus where no host write and no bus error comes for a number of accesses, and one that then comes; and the words that a
list of writes leaves in host memory. -/

namespace Sys2Proof.CalmBus

open Sys2Proof.Machine Sys2Proof.Laws

/-! ## Words written one after another -/

/-- Words put in memory in order. -/
def putWords (ws : List (Nat × Word)) (m : List Host.Cell) : List Host.Cell :=
  ws.foldl (fun m x => writeMemWord x.1 x.2 m) m

theorem readMemWord_congr {a : Nat} {m m' : List Host.Cell} (h : ∀ b, a ≤ b → b < a + 4 → readByte b m' = readByte b m) :
    readMemWord a m' = readMemWord a m := by
  rw [readMemWord, h (a + 3) (by omega) (by omega), h (a + 2) (by omega) (by omega), h (a + 1) (by omega) (by omega),
    h a le_rfl (by omega), readMemWord]

theorem putWords_wf {ws : List (Nat × Word)} {m : List Host.Cell} (h : memoryWf m = true) :
    memoryWf (putWords ws m) = true := by
  induction ws generalizing m with
  | nil => exact h
  | cons x ws ih => exact ih (writeMemWord_wf h)

theorem readByte_putWords_other {ws : List (Nat × Word)} {m : List Host.Cell} {a : Nat} (hwf : memoryWf m = true)
    (h : ∀ x ∈ ws, a < x.1 ∨ x.1 + 4 ≤ a) : readByte a (putWords ws m) = readByte a m := by
  induction ws generalizing m with
  | nil => rfl
  | cons x ws ih =>
    obtain ⟨hx, hws⟩ := List.forall_mem_cons.1 h
    exact (ih (writeMemWord_wf hwf) hws).trans (readByte_writeMemWord_other hwf hx)

/-- Of words at places apart, each reads back. -/
theorem readMemWord_putWords {ws : List (Nat × Word)} {m : List Host.Cell} (hwf : memoryWf m = true)
    (hapart : ws.Pairwise fun x y => x.1 + 4 ≤ y.1 ∨ y.1 + 4 ≤ x.1) :
    ∀ x ∈ ws, readMemWord x.1 (putWords ws m) = x.2 := by
  induction ws generalizing m with
  | nil => exact fun x hx => absurd hx List.not_mem_nil
  | cons x ws ih =>
    obtain ⟨hx, hws⟩ := List.pairwise_cons.1 hapart
    refine List.forall_mem_cons.2 ⟨?_, ih (writeMemWord_wf hwf) hws⟩
    have hlater : readMemWord x.1 (putWords (x :: ws) m) = readMemWord x.1 (writeMemWord x.1 x.2 m) :=
      readMemWord_congr fun b hlo hhi => readByte_putWords_other (writeMemWord_wf hwf) fun y hy => by
        have := hx y hy
        omega
    exact hlater.trans (readMemWord_writeMemWord hwf)

/-! ## Accesses without a host write or a bus error -/

/-- The next accesses meet no host write and no bus error. -/
def calm (n : Nat) (ts : List BusTurn) : Prop := ∀ t ∈ ts.take n, t = ⟨[], false⟩

theorem calm_nil (n : Nat) : calm n [] := by simp [calm]

theorem calm.mono {m n : Nat} {ts : List BusTurn} (h : calm n ts) (hle : m ≤ n) : calm m ts :=
  fun t ht => h t (List.take_subset_take_left ts hle ht)

theorem calm_replicate {m n : Nat} (h : n ≤ m) (ts : List BusTurn) : calm n (List.replicate m ⟨[], false⟩ ++ ts) := by
  intro t ht
  rw [List.take_append_of_le_length (by simpa using h), List.take_replicate] at ht
  exact List.eq_of_mem_replicate ht

theorem calm.drop {m n : Nat} {ts : List BusTurn} (h : calm (m + n) ts) : calm n (ts.drop m) := by
  intro t ht
  rw [List.take_drop] at ht
  exact h t (List.mem_of_mem_drop ht)

/-- The bus side after a number of calm accesses. -/
def after (n : Nat) (io : Io) : Io := { io with turns := io.turns.drop n }

@[simp] theorem after_zero (io : Io) : after 0 io = io := rfl

theorem after_after (m n : Nat) (io : Io) : after n (after m io) = after (m + n) io := by
  simp only [after, List.drop_drop]

@[simp] theorem after_mem (n : Nat) (io : Io) : (after n io).mem = io.mem := rfl

theorem after_of_nil {io : Io} (h : io.turns = []) (n : Nat) : after n io = io := by
  have hdrop : io.turns.drop n = io.turns := by rw [h, List.drop_nil]
  rw [after, hdrop]

section
variable {io : Io} {ts : List BusTurn}

theorem takeTurn_calm (h : calm 1 io.turns) : takeTurn io = (false, after 1 io) := by
  obtain ⟨mem, turns⟩ := io
  cases turns with
  | nil => rfl
  | cons t ts =>
    obtain rfl := h t List.mem_cons_self
    rfl

theorem takeTurn_error (h : io.turns = ⟨[], true⟩ :: ts) : takeTurn io = (true, { io with turns := ts }) := by
  rw [takeTurn, h]
  rfl

theorem readWord_calm (a : Nat) (h : calm 1 io.turns) : readWord a io = (some (readMemWord a io.mem), after 1 io) := by
  rw [readWord, takeTurn_calm h]
  rfl

theorem readHalf_calm (a : Nat) (h : calm 1 io.turns) : readHalf a io = (some (readMemHalf a io.mem), after 1 io) := by
  rw [readHalf, takeTurn_calm h]
  rfl

theorem readWord_error (a : Nat) (h : io.turns = ⟨[], true⟩ :: ts) : readWord a io = (none, { io with turns := ts }) := by
  rw [readWord, takeTurn_error h]
  rfl

theorem readHalf_error (a : Nat) (h : io.turns = ⟨[], true⟩ :: ts) : readHalf a io = (none, { io with turns := ts }) := by
  rw [readHalf, takeTurn_error h]
  rfl

theorem readReporting_calm (e : Env) (src : Source) (d : Word) (a : Nat) (h : calm 1 io.turns) :
    readReporting e src d a io = (some (readMemWord a io.mem), after 1 io) := by
  rw [readReporting, readWord_calm a h]
  rfl

theorem readReporting_error (e : Env) (src : Source) (d : Word) (a : Nat) (h : io.turns = ⟨[], true⟩ :: ts) :
    readReporting e src d a io = (none, hand e .readFailed src (BitVec.ofNat 32 a) d 0 { io with turns := ts }) := by
  rw [readReporting, readWord_error a h]
  rfl

theorem inWindow_iff (e : Env) (a : Nat) : inWindow e a = true ↔ e.lo ≤ a ∧ a + 4 ≤ e.hi := by
  simp [inWindow]

theorem writeWord_calm {e : Env} {a : Nat} (w : Word) (hin : e.lo ≤ a ∧ a + 4 ≤ e.hi) (h : calm 1 io.turns) :
    writeWord e a w io = (.made, { after 1 io with mem := writeMemWord a w io.mem }) := by
  rw [writeWord, if_pos ((inWindow_iff e a).2 hin), takeTurn_calm h]
  rfl

theorem writeWord_refused {e : Env} {a : Nat} (w : Word) (h : ¬ (e.lo ≤ a ∧ a + 4 ≤ e.hi)) :
    writeWord e a w io = (.refused, io) := if_neg ((inWindow_iff e a).not.2 h)

theorem writeWord_error {e : Env} {a : Nat} (w : Word) (hin : e.lo ≤ a ∧ a + 4 ≤ e.hi)
    (h : io.turns = ⟨[], true⟩ :: ts) : writeWord e a w io = (.failed, { io with turns := ts }) := by
  rw [writeWord, if_pos ((inWindow_iff e a).2 hin), takeTurn_error h]
  rfl

end

/-- Words that the window takes on a calm bus are all made, and the writing goes on after them. -/
theorem writeUntil_calm {e : Env} (ws vs : List (Nat × Word)) {io : Io} (hin : ∀ x ∈ ws, e.lo ≤ x.1 ∧ x.1 + 4 ≤ e.hi)
    (h : calm ws.length io.turns) : writeUntil e (ws ++ vs) io =
      writeUntil e vs { after ws.length io with mem := putWords ws io.mem } := by
  induction ws generalizing io with
  | nil => rfl
  | cons x ws ih =>
    obtain ⟨hx, hws⟩ := List.forall_mem_cons.1 hin
    have hrest : calm ws.length (io.turns.drop 1) := (Nat.add_comm _ 1 ▸ h : calm (1 + ws.length) io.turns).drop
    rw [List.cons_append, writeUntil, writeWord_calm x.2 hx (h.mono (by simp))]
    refine (ih (io := { after 1 io with mem := writeMemWord x.1 x.2 io.mem }) hws hrest).trans ?_
    simp only [after, List.drop_drop, Nat.add_comm 1, List.length_cons, putWords, List.foldl_cons]

end Sys2Proof.CalmBus
end

section
/-! The Notice Unit at the end of a frame (11.2, 11.3): folding, held reads, and serving. -/

namespace Sys2Proof.NoticeUnit

open Sys2Proof.Machine Sys2Proof.Laws Sys2Proof.BusSide Sys2Proof.CalmBus

/-! ## Folding (R189) -/

/-- A notice passes the entries of other events by. -/
theorem foldNotice_append {n : Notice} {xs : List Notice} (h : ∀ y ∈ xs, n.sameEvent y = false) (ys : List Notice) :
    foldNotice n (xs ++ ys) = xs ++ foldNotice n ys := by
  induction xs with
  | nil => rfl
  | cons x xs ih =>
    obtain ⟨hx, hxs⟩ := List.forall_mem_cons.1 h
    rw [List.cons_append, foldNotice, if_neg (by simp [hx]), ih hxs, List.cons_append]

/-- Settles O58. -/
theorem noticesFold : Obligations.NoticesFold := by
  unfold Obligations.NoticesFold
  intro n xs ys x hxs
  refine ⟨?appended, fun hsame hcount => ?folded, fun hsame hcount => ?full⟩
  case appended =>
    have happend := foldNotice_append hxs []
    rwa [List.append_nil] at happend
  case folded => rw [foldNotice_append hxs, foldNotice, if_pos hsame, countUp, if_pos hcount]
  case full => rw [foldNotice_append hxs, foldNotice, if_pos hsame, countUp, if_neg (by rw [hcount]; decide), hcount]

/-! ## Held reads (R191, R192) -/

section
variable {e : Env} {io : Io} {x : NoticeClass}

theorem heldRead_unposted (h : io.posted x = false) : heldRead e io x = io := if_neg (by simp [h])

theorem heldRead_posted (h : io.posted x = true) : heldRead e io x =
    (let r := readReporting e .noticeUnit (BitVec.ofNat 32 x.number) (slotAt e.area x) io
    if r.1 = some 0 then r.2.setCls x { r.2.cls x with shown := none } else r.2) := if_pos h

end

/-- Settles O60. -/
theorem heldReadTakesBack : Obligations.HeldReadTakesBack := by
  unfold Obligations.HeldReadTakesBack
  intro e io x
  refine ⟨fun hturns hposted => ?calm, fun ts hturns hposted => ?error, heldRead_unposted⟩
  case calm =>
    rw [heldRead_posted hposted, readReporting_calm _ _ _ _ (hturns ▸ calm_nil 1), after_of_nil hturns]
    simp only [Option.some.injEq]
  case error => rw [heldRead_posted hposted, readReporting_error _ _ _ _ hturns, if_neg (by simp)]

/-! ## Serving (R190, R192) -/

/-- The words of a notice slot in the order they are written, the held word last (assumption 31). -/
def servedWords (base : Nat) (n : Notice) : List (Nat × Word) := slotWords base n ++ [(base, 1)]

/-- The place of a word of a slot in the order of the writing. -/
def placeOf (base m : Nat) : Nat := base + (4 * m + 4) % 32

/-- The value of a word of a slot in the order of the writing. -/
def valueOf (n : Notice) (m : Nat) : Word :=
  [BitVec.ofNat 32 n.code.number, n.source.word, n.frame, BitVec.ofNat 32 n.merged, n.detail0, n.detail1,
    n.detail2].getD m 1

theorem servedWords_length (base : Nat) (n : Notice) : (servedWords base n).length = 8 := rfl

/-- The place and the value of each word. -/
theorem servedWords_getElem (base : Nat) (n : Notice) {m : Nat} (h : m < (servedWords base n).length) : (servedWords base n)[m] = (placeOf base m, valueOf n m) := by
  have h8 : m < 8 := h
  interval_cases m <;> rfl

/-- The words stand apart. -/
theorem servedWords_apart (base : Nat) (n : Notice) :
    (servedWords base n).Pairwise fun x y => x.1 + 4 ≤ y.1 ∨ y.1 + 4 ≤ x.1 := by
  rw [List.pairwise_iff_getElem]
  intro i j hi hj hlt
  have hi8 : i < 8 := hi
  have hj8 : j < 8 := hj
  rw [servedWords_getElem, servedWords_getElem]
  simp only [placeOf]
  omega

section
variable {e : Env} {io : Io} {x : NoticeClass} {n : Notice} {rest : List Notice}

theorem serveClass_alone (h : io.posted x = true ∨ (io.cls x).waiting = []) (later : List NoticeOut) :
    serveClass e { io := io, later := later } x = { io := io, later := later } := by
  unfold serveClass
  rcases h with h | h
  · rw [if_pos h]
  · simp only [h]
    exact ite_self _

/-- The state of the bus side in which an entry is served: its class's list without it. -/
def withoutHead (x : NoticeClass) (rest : List Notice) (io : Io) : Io := io.setCls x { io.cls x with waiting := rest }

theorem serveClass_entry (hposted : io.posted x = false) (hwaiting : (io.cls x).waiting = n :: rest)
    (later : List NoticeOut) : serveClass e { io := io, later := later } x =
      serveEntry e x n { io := withoutHead x rest io, later := later } := by
  unfold serveClass
  rw [if_neg (by simp [hposted])]
  simp only [hwaiting]
  rfl

@[simp] theorem withoutHead_turns : (withoutHead x rest io).turns = io.turns := setCls_turns ..

@[simp] theorem withoutHead_mem : (withoutHead x rest io).mem = io.mem := setCls_mem ..

@[simp] theorem withoutHead_windowFault : (withoutHead x rest io).windowFault = io.windowFault := setCls_windowFault ..

theorem withoutHead_cls (hposted : io.posted x = false) :
    (withoutHead x rest io).cls x = { waiting := rest, shown := none } := by
  rw [withoutHead, setCls_cls, if_pos rfl]
  exact congrArg (ClassState.mk rest) (Option.not_isSome_iff_eq_none.1 (by simpa [Io.posted] using hposted))

/-- Memory, turns and WINDOW_FAULT are apart from the classes. -/
theorem cls_memory (io : Io) (x : NoticeClass) (m : List Host.Cell) (ts : List BusTurn) (b : Bool) :
    Io.cls { io with mem := m, turns := ts, windowFault := b } x = io.cls x := by cases x <;> rfl

/-- All eight words made: the entry is shown. -/
theorem serveEntry_made {later : List NoticeOut} (hin : ∀ y ∈ servedWords (slotAt e.area x) n, e.lo ≤ y.1 ∧ y.1 + 4 ≤ e.hi)
    (hcalm : calm 8 io.turns) : serveEntry e x n { io := io, later := later } =
      { io := Io.setCls { after 8 io with mem := putWords (servedWords (slotAt e.area x) n) io.mem } x
          { io.cls x with shown := some n }
        later := later } := by
  have hwrite : writeUntil e (servedWords (slotAt e.area x) n) io =
      ((.made, 0), { after 8 io with mem := putWords (servedWords (slotAt e.area x) n) io.mem }) := by
    have hall := writeUntil_calm (servedWords (slotAt e.area x) n) [] hin hcalm
    rw [List.append_nil] at hall
    exact hall
  rw [serveEntry]
  simp only [show slotWords (slotAt e.area x) n ++ [(slotAt e.area x, 1)] = servedWords (slotAt e.area x) n from rfl,
    hwrite]
  rw [show Io.cls { after 8 io with mem := putWords (servedWords (slotAt e.area x) n) io.mem } x = io.cls x from
    cls_memory ..]

theorem serveEntry_refused {later : List NoticeOut} {a : Nat} {t : Io}
    (h : writeUntil e (servedWords (slotAt e.area x) n) io = ((.refused, a), t)) :
    serveEntry e x n { io := io, later := later } = { io := { t with windowFault := true }, later := later } := by
  rw [serveEntry]
  simp only [show slotWords (slotAt e.area x) n ++ [(slotAt e.area x, 1)] = servedWords (slotAt e.area x) n from rfl, h]

theorem serveEntry_failed {later : List NoticeOut} {a : Nat} {t : Io}
    (h : writeUntil e (servedWords (slotAt e.area x) n) io = ((.failed, a), t)) :
    serveEntry e x n { io := io, later := later } = { io := t, later := later ++ slotFailure x a } := by
  rw [serveEntry]
  simp only [show slotWords (slotAt e.area x) n ++ [(slotAt e.area x, 1)] = servedWords (slotAt e.area x) n from rfl, h]

/-- The words before one that is not made. -/
theorem writeUntil_servedWords {i : Nat} (hi : i < 8)
    (hin : ∀ y ∈ (servedWords (slotAt e.area x) n).take i, e.lo ≤ y.1 ∧ y.1 + 4 ≤ e.hi) (hcalm : calm i io.turns) :
    writeUntil e (servedWords (slotAt e.area x) n) io = writeUntil e ((servedWords (slotAt e.area x) n).drop i)
      { after i io with mem := putWords ((servedWords (slotAt e.area x) n).take i) io.mem } := by
  have hlen : ((servedWords (slotAt e.area x) n).take i).length = i :=
    (List.length_take_of_le (by rw [servedWords_length]; omega))
  have hsplit := writeUntil_calm ((servedWords (slotAt e.area x) n).take i) ((servedWords (slotAt e.area x) n).drop i)
    hin (hlen.symm ▸ hcalm)
  rwa [List.take_append_drop, hlen] at hsplit

/-- The first words of a slot, by their places. -/
theorem mem_take_servedWords {base i : Nat} (hi : i ≤ 8) (y : Nat × Word) : y ∈ (servedWords base n).take i ↔
    ∃ m, m < i ∧ y = (placeOf base m, valueOf n m) := by
  rw [List.mem_take_iff_getElem]
  constructor
  · rintro ⟨m, hm, rfl⟩
    exact ⟨m, by omega, servedWords_getElem ..⟩
  · rintro ⟨m, hm, rfl⟩
    exact ⟨m, by rw [servedWords_length]; omega, servedWords_getElem ..⟩

/-- What the first words of a slot leave in memory. -/
theorem read_servedWords {base i : Nat} (hi : i ≤ 8) {m : List Host.Cell} (hwf : memoryWf m = true) :
    (∀ j, j < i → readMemWord (placeOf base j) (putWords ((servedWords base n).take i) m) = valueOf n j) ∧
    ∀ a, (∀ j, j < i → a < placeOf base j ∨ placeOf base j + 4 ≤ a) →
      readByte a (putWords ((servedWords base n).take i) m) = readByte a m := by
  refine ⟨fun j hj => ?_, fun a ha => readByte_putWords_other hwf fun y hy => ?_⟩
  · exact readMemWord_putWords hwf ((servedWords_apart base n).sublist (List.take_sublist ..)) (placeOf base j, valueOf n j)
      ((mem_take_servedWords hi _).2 ⟨j, hj, rfl⟩)
  · obtain ⟨j, hj, rfl⟩ := (mem_take_servedWords hi y).1 hy
    exact ha j hj

end

/-- Settles O59: the words before the one that is not made stand, and with all eight made the entry is shown. -/
theorem servedSlotHoldsNotice : Obligations.ServedSlotHoldsNotice := by
  unfold Obligations.ServedSlotHoldsNotice
  refine ⟨fun e io x n rest => ⟨fun halone => serveClass_alone halone [], fun hposted hwaiting hturns hwf hlo hhi => ?served⟩,
    fun e io x n rest i hposted hwaiting hwf hi => ?dropped⟩
  case served =>
    have hin : ∀ y ∈ servedWords (slotAt e.area x) n, e.lo ≤ y.1 ∧ y.1 + 4 ≤ e.hi := by
      intro y hy
      obtain ⟨m, hm, rfl⟩ := (mem_take_servedWords (i := 8) le_rfl y).1 hy
      simp only [placeOf]
      omega
    have htake : (servedWords (slotAt e.area x) n).take 8 = servedWords (slotAt e.area x) n := rfl
    obtain ⟨hwords, hothers⟩ := read_servedWords (n := n) (base := slotAt e.area x) (i := 8) le_rfl hwf
    rw [htake] at hwords hothers
    rw [serveClass_entry hposted hwaiting, serveEntry_made hin (by rw [withoutHead_turns, hturns]; exact calm_nil 8),
      withoutHead_cls hposted, withoutHead_mem]
    dsimp only
    rw [setCls_cls, if_pos rfl, setCls_mem, setCls_windowFault]
    generalize putWords (servedWords (slotAt e.area x) n) io.mem = m at hwords hothers
    exact ⟨rfl, withoutHead_windowFault, hwords 7 (by decide), hwords 0 (by decide), hwords 1 (by decide),
      hwords 2 (by decide), hwords 3 (by decide), hwords 4 (by decide), hwords 5 (by decide), hwords 6 (by decide),
      fun a ha => hothers a fun j hj => by simp only [placeOf]; omega⟩
  case dropped =>
    intro place word r hin dropped
    have hbefore : ∀ y ∈ (servedWords (slotAt e.area x) n).take i, e.lo ≤ y.1 ∧ y.1 + 4 ≤ e.hi := by
      intro y hy
      obtain ⟨m, hm, rfl⟩ := (mem_take_servedWords hi.le y).1 hy
      exact hin m hm
    have hdrop : (servedWords (slotAt e.area x) n).drop i =
        (place i, word i) :: (servedWords (slotAt e.area x) n).drop (i + 1) :=
      (List.drop_eq_getElem_cons hi).trans (congrArg (· :: _) (servedWords_getElem _ n hi))
    have hwrite (hcalm : calm i io.turns) : writeUntil e (servedWords (slotAt e.area x) n) (withoutHead x rest io) =
        writeUntil e ((place i, word i) :: (servedWords (slotAt e.area x) n).drop (i + 1))
          { after i (withoutHead x rest io) with mem := putWords ((servedWords (slotAt e.area x) n).take i) io.mem } := by
      rw [writeUntil_servedWords hi hbefore (by rwa [withoutHead_turns]), hdrop, withoutHead_mem]
    have hentry : r = serveEntry e x n { io := withoutHead x rest io, later := [] } :=
      serveClass_entry hposted hwaiting []
    have hdropped (t : Io) (hcls : t.cls x = (withoutHead x rest io).cls x)
        (hmem : t.mem = putWords ((servedWords (slotAt e.area x) n).take i) io.mem) (ht : r.io = t) : dropped := by
      obtain ⟨hwords, hothers⟩ := read_servedWords (n := n) (base := slotAt e.area x) hi.le hwf
      refine ⟨by rw [ht, hcls, withoutHead_cls hposted], ?_, ?_⟩
      · rw [ht, hmem]
        exact hwords
      · rw [ht, hmem]
        exact hothers
    refine ⟨fun hturns hout => ?refused, fun hturns hlo hhi => ?failed⟩
    case refused =>
      have hrefused : writeUntil e (servedWords (slotAt e.area x) n) (withoutHead x rest io) = ((.refused, place i),
          { after i (withoutHead x rest io) with mem := putWords ((servedWords (slotAt e.area x) n).take i) io.mem }) := by
        rw [hwrite (hturns ▸ calm_nil i), writeUntil, writeWord_refused _ (by omega)]
      have hr := hentry.trans (serveEntry_refused hrefused)
      exact ⟨hdropped _ (cls_memory ..) rfl (congrArg Serving.io hr), by rw [hr], by rw [hr]⟩
    case failed =>
      have hat : io.turns.drop i = [⟨[], true⟩] := by
        rw [hturns, List.drop_append_of_le_length (by simp), List.drop_replicate, Nat.sub_self]
        rfl
      have hfailed : writeUntil e (servedWords (slotAt e.area x) n) (withoutHead x rest io) = ((.failed, place i),
          { withoutHead x rest io with
            turns := [], mem := putWords ((servedWords (slotAt e.area x) n).take i) io.mem }) := by
        have herror := writeWord_error (e := e) (ts := []) (io := { after i (withoutHead x rest io) with
          mem := putWords ((servedWords (slotAt e.area x) n).take i) io.mem }) (word i) ⟨hlo, hhi⟩
          (by simp only [after, withoutHead_turns, hat])
        rw [hwrite (hturns ▸ calm_replicate le_rfl _), writeUntil, herror]
        rfl
      have hr := hentry.trans (serveEntry_failed hfailed)
      exact ⟨hdropped _ (cls_memory ..) rfl (congrArg Serving.io hr), by rw [hr]; exact withoutHead_windowFault,
        by rw [hr]; rfl⟩

end Sys2Proof.NoticeUnit
end

section
/-! The checks of a seat record (Table 1-6, R44, R123, R183).  A chain of checks answers the first reason that fails (`First`),
and each check of the model is such a chain. -/

namespace Sys2Proof.RecordChecks

open Sys2Proof.Machine

/-! ## The first reason that fails -/

/-- The reasons in the order of their numbers. -/
def reasons : List Reason :=
  [.badMode, .slotRange, .slotTaken, .streamRange, .targetInvalid, .targetIdle, .targetFull, .hasSupervisors, .tailRange,
    .delayRange, .cellRange]

theorem reasons_encode (r : Reason) : reasons[r.encode - 1]? = some r := by cases r <;> rfl

theorem reason_ext {v w : Reason} (h : v.encode = w.encode) : v = w :=
  Option.some.inj ((reasons_encode v).symm.trans (h ▸ reasons_encode w))

/-- A check answers the first reason, by number, that fails; none when none does. -/
structure First (o : Option Reason) (fails : Reason → Prop) : Prop where
  refused : ∀ why, o = some why → fails why ∧ ∀ w, w.encode < why.encode → ¬ fails w
  passed : o = none → ∀ why, ¬ fails why

namespace First

variable {o p : Option Reason} {f g : Reason → Prop}

theorem eq_none_iff (h : First o f) : o = none ↔ ∀ why, ¬ f why := by
  refine ⟨h.passed, fun hnone => ?_⟩
  obtain ho | ⟨why, ho⟩ := Option.eq_none_or_eq_some o
  · exact ho
  · exact absurd (h.refused why ho).1 (hnone why)

theorem eq_some_iff (h : First o f) (why : Reason) : o = some why ↔ f why ∧ ∀ w, w.encode < why.encode → ¬ f w := by
  refine ⟨h.refused why, fun ⟨hfails, hfirst⟩ => ?_⟩
  obtain ho | ⟨w, ho⟩ := Option.eq_none_or_eq_some o
  · exact absurd hfails (h.passed ho why)
  · obtain ⟨hw, hwfirst⟩ := h.refused w ho
    have hle : why.encode ≤ w.encode := Nat.le_of_not_lt fun hlt => hfirst w hlt hw
    have hge : w.encode ≤ why.encode := Nat.le_of_not_lt fun hlt => hwfirst why hlt hfails
    rw [ho, reason_ext (Nat.le_antisymm hge hle)]

theorem congr (h : First o f) (hfg : ∀ w, f w ↔ g w) : First o g := funext (fun w => propext (hfg w)) ▸ h

theorem never : First none fun _ => False := ⟨by simp, by simp⟩

/-- A check made for the records that name its group. -/
theorem ifNamed (h : First o f) (named : Bool) : First (if named then o else none) fun w => named = true ∧ f w := by
  cases named
  · exact never.congr (by simp)
  · exact h.congr (by simp)

/-- One more check in front, of a reason with a lower number. -/
theorem check (r : Reason) (P : Prop) [Decidable P] (h : ¬ P → First o f) (hlater : ∀ w, f w → r.encode < w.encode) :
    First (if P then some r else o) fun w => w = r ∧ P ∨ f w := by
  by_cases hP : P
  · rw [if_pos hP]
    refine ⟨fun why hwhy => ?_, by simp⟩
    obtain rfl := Option.some.inj hwhy
    refine ⟨.inl ⟨rfl, hP⟩, ?_⟩
    rintro w hlt (⟨rfl, -⟩ | hw)
    · exact Nat.lt_irrefl _ hlt
    · exact Nat.lt_asymm hlt (hlater w hw)
  · rw [if_neg hP]
    exact (h hP).congr (by simp [hP])

/-- A single check. -/
theorem single (r : Reason) (P : Prop) [Decidable P] : First (if P then some r else none) fun w => w = r ∧ P :=
  (check r P (fun _ => never) (fun _ h => h.elim)).congr fun _ => or_iff_left id

/-- Checks made after others, of reasons with higher numbers. -/
theorem or (h : First o f) (h' : First p g) (hlater : ∀ v w, f v → g w → v.encode < w.encode) :
    First (o.or p) fun w => f w ∨ g w := by
  obtain ho | ⟨why, ho⟩ := Option.eq_none_or_eq_some o
  · rw [ho, Option.none_or]
    exact h'.congr fun w => (or_iff_right (h.passed ho w)).symm
  · obtain ⟨hfails, hfirst⟩ := h.refused why ho
    rw [ho, Option.some_or]
    refine ⟨fun w hw => ?_, by simp⟩
    obtain rfl := Option.some.inj hw
    refine ⟨.inl hfails, ?_⟩
    rintro v hlt (hv | hv)
    · exact hfirst v hlt hv
    · exact Nat.lt_asymm hlt (hlater _ v hfails hv)

end First

/-! ## The checks of the groups -/

variable (s : State) (k : SeatNo)

/-- The checks of a slot: SLOT_RANGE, then SLOT_TAKEN. -/
theorem checkSlot_first (n : Nat) : First (checkSlot s k n) fun w => w = .slotRange ∧ 31 < n ∨
    w = .slotTaken ∧ ∃ (m : SlotNo) (j : SeatNo), n = m.val ∧ s.slotMap[m] = some j ∧ j ≠ k := by
  by_cases hn : n < 32
  · rw [checkSlot, dif_pos hn]
    have htaken : (∃ (m : SlotNo) (j : SeatNo), n = m.val ∧ s.slotMap[m] = some j ∧ j ≠ k) ↔
        ∃ j : SeatNo, s.slotMap[n] = some j ∧ j ≠ k := by
      constructor
      · rintro ⟨m, j, rfl, hj⟩
        exact ⟨j, hj⟩
      · rintro ⟨j, hj⟩
        exact ⟨⟨n, hn⟩, j, rfl, hj⟩
    have hrange : ¬ 31 < n := by omega
    rw [htaken]
    cases s.slotMap[n] with
    | none => exact First.never.congr (by simp [hrange])
    | some j =>
      by_cases hj : j = k
      · simpa [hj, hrange] using First.never
      · simpa [hj, hrange] using First.single .slotTaken True
  · have hrange : 31 < n := by omega
    have hcheck := First.check (o := none) (f := fun w => w = .slotTaken ∧ ∃ (m : SlotNo) (j : SeatNo), n = m.val ∧
      s.slotMap[m] = some j ∧ j ≠ k) .slotRange (31 < n) (fun h => absurd hrange h) fun w hw => hw.1 ▸ by decide
    rw [if_pos hrange] at hcheck
    rwa [checkSlot, dif_neg hn]

/-- STREAM_RANGE. -/
theorem checkStream_first (n : Nat) : First (checkStream n) fun w => w = .streamRange ∧ 15 < n ∧ n ≠ 255 := by
  rw [checkStream]
  have hcheck := First.single .streamRange (¬ (n < 16 ∨ n = 255))
  rw [ite_not] at hcheck
  refine hcheck.congr fun w => ?_
  rw [and_congr_right_iff]
  omega

/-- A target number and the seat of that number. -/
theorem exists_seat {n : Nat} (hn : n < 32) (p : SeatNo → Prop) : (∃ t : SeatNo, n = t.val ∧ p t) ↔ p ⟨n, hn⟩ := by
  constructor
  · rintro ⟨t, rfl, ht⟩
    exact ht
  · exact fun h => ⟨⟨n, hn⟩, rfl, h⟩

/-- The checks of a target, in the order of Table 1-6. -/
theorem checkTarget_first (n : Nat) : First (checkTarget s k n) fun w =>
    w = .targetInvalid ∧ (n = k.val ∨ s.header.seats ≤ n ∨ 31 < n ∨
      ∃ t : SeatNo, n = t.val ∧ s.seats[t].adopted.routing.mode = .supervise) ∨
    w = .targetIdle ∧ (∃ t : SeatNo, n = t.val ∧ s.seats[t].adopted.routing.mode = .idle) ∨
    w = .targetFull ∧ (∃ t : SeatNo, n = t.val ∧ 2 ≤ s.seats[t].adopted.supervisors.length ∧
      ∀ a ∈ s.seats[t].adopted.supervisors, a.seat ≠ k) ∨
    w = .hasSupervisors ∧ s.seats[k].adopted.supervisors ≠ [] := by
  by_cases hn : n < 32
  · have hrange : ¬ 31 < n := by omega
    have hfree := First.single .hasSupervisors (s.seats[k].adopted.supervisors ≠ [])
    have hroom := First.check .targetFull (2 ≤ s.seats[n].adopted.supervisors.length ∧
      ¬ (s.seats[n].adopted.supervisors.any fun a => a.seat = k)) (fun _ => hfree) (by rintro w ⟨rfl, -⟩; decide)
    have hidle := First.check .targetIdle (s.seats[n].adopted.routing.mode = .idle) (fun _ => hroom)
      (by rintro w (⟨rfl, -⟩ | ⟨rfl, -⟩) <;> decide)
    have hvalid := First.check .targetInvalid (n = k.val ∨ s.header.seats ≤ n ∨ s.seats[n].adopted.routing.mode = .supervise)
      (fun _ => hidle) (by rintro w (⟨rfl, -⟩ | ⟨rfl, -⟩ | ⟨rfl, -⟩) <;> decide)
    rw [checkTarget, dif_pos hn]
    simp only [exists_seat hn]
    refine hvalid.congr fun w => ?_
    simp [hrange]
  · have hrange : n = k.val ∨ s.header.seats ≤ n ∨ 31 < n ∨
        ∃ t : SeatNo, n = t.val ∧ s.seats[t].adopted.routing.mode = .supervise := .inr (.inr (.inl (by omega)))
    rw [checkTarget, dif_neg hn]
    refine (First.check (o := none) (f := fun w =>
      w = .targetIdle ∧ (∃ t : SeatNo, n = t.val ∧ s.seats[t].adopted.routing.mode = .idle) ∨
      w = .targetFull ∧ (∃ t : SeatNo, n = t.val ∧ 2 ≤ s.seats[t].adopted.supervisors.length ∧
        ∀ a ∈ s.seats[t].adopted.supervisors, a.seat ≠ k) ∨
      w = .hasSupervisors ∧ s.seats[k].adopted.supervisors ≠ []) .targetInvalid True (fun h => absurd trivial h)
      (by rintro w (⟨rfl, -⟩ | ⟨rfl, -⟩ | ⟨rfl, -⟩) <;> decide)).congr fun w => ?_
    simp only [hrange]

/-- The checks of ROUTING, by the requested mode: what fails, reason by reason. -/
def routingFails (r : RoutingRecord) (w : Reason) : Prop :=
  w = .badMode ∧ (decodeMode r.mode = none ∨ decodeMode r.mode = some .supervise ∧ 3 ≤ r.kind) ∨
  (decodeMode r.mode = some .talk ∨ decodeMode r.mode = some .hold) ∧
    (w = .slotRange ∧ 31 < r.nhSlot ∨
      w = .slotTaken ∧ ∃ (m : SlotNo) (j : SeatNo), r.nhSlot = m.val ∧ s.slotMap[m] = some j ∧ j ≠ k) ∨
  decodeMode r.mode = some .hold ∧ (w = .streamRange ∧ 15 < r.holdStream ∧ r.holdStream ≠ 255) ∨
  decodeMode r.mode = some .supervise ∧
    (w = .targetInvalid ∧ (r.target = k.val ∨ s.header.seats ≤ r.target ∨ 31 < r.target ∨
        ∃ t : SeatNo, r.target = t.val ∧ s.seats[t].adopted.routing.mode = .supervise) ∨
      w = .targetIdle ∧ (∃ t : SeatNo, r.target = t.val ∧ s.seats[t].adopted.routing.mode = .idle) ∨
      w = .targetFull ∧ (∃ t : SeatNo, r.target = t.val ∧ 2 ≤ s.seats[t].adopted.supervisors.length ∧
        ∀ a ∈ s.seats[t].adopted.supervisors, a.seat ≠ k) ∨
      w = .hasSupervisors ∧ s.seats[k].adopted.supervisors ≠ [])

theorem decodeKind_eq_none (n : Nat) : decodeKind n = none ↔ 3 ≤ n := by
  match n with
  | 0 | 1 | 2 => simp [decodeKind]
  | n + 3 => simp [decodeKind]

theorem checkRouting_first (r : RoutingRecord) : First (checkRouting s k r) (routingFails s k r) := by
  unfold checkRouting routingFails
  cases hmode : decodeMode r.mode with
  | none => exact (First.single .badMode True).congr (by simp)
  | some m =>
    cases m with
    | idle => exact First.never.congr (by simp)
    | talk => exact (checkSlot_first s k r.nhSlot).congr (by simp)
    | hold =>
      refine ((checkSlot_first s k r.nhSlot).or (checkStream_first r.holdStream) ?_).congr (by simp)
      rintro v w (⟨rfl, -⟩ | ⟨rfl, -⟩) ⟨rfl, -⟩ <;> decide
    | supervise =>
      refine (First.check .badMode ((decodeKind r.kind).isNone = true) (fun _ => checkTarget_first s k r.target)
        ?_).congr (by simp [decodeKind_eq_none])
      rintro w (⟨rfl, -⟩ | ⟨rfl, -⟩ | ⟨rfl, -⟩ | ⟨rfl, -⟩) <;> decide

/-- The checks of ECHO (R44). -/
theorem checkEcho_first (e : Echo) : First (checkEcho e) fun w =>
    w = .tailRange ∧ (e.tailRequest < 1 ∨ 16 < e.tailRequest ∨ e.tailFloor < 1 ∨ 16 < e.tailFloor ∨
      e.tailRequest < e.tailFloor) ∨ w = .delayRange ∧ 1023 < e.bulkDelay :=
  First.check _ _ (fun _ => First.single ..) (by rintro w ⟨rfl, -⟩; decide)

/-- The check of PROMPT_CANCEL (R123). -/
theorem checkCancel_first (n : Nat) : First (checkCancel n) fun w => w = .cellRange ∧ 3 < n ∧ n ≠ 255 := by
  rw [checkCancel]
  have hcheck := First.single .cellRange (¬ (n ≤ 3 ∨ n = 255))
  rw [ite_not] at hcheck
  refine hcheck.congr fun w => ?_
  rw [and_congr_right_iff]
  omega

/-- What fails of a whole record, reason by reason. -/
def recordFails (r : SeatRecord) (w : Reason) : Prop :=
  (r.namesRouting = true ∧ routingFails s k r.routing w ∨
    r.namesEcho = true ∧ (w = .tailRange ∧ (r.echo.tailRequest < 1 ∨ 16 < r.echo.tailRequest ∨ r.echo.tailFloor < 1 ∨
      16 < r.echo.tailFloor ∨ r.echo.tailRequest < r.echo.tailFloor) ∨ w = .delayRange ∧ 1023 < r.echo.bulkDelay)) ∨
  r.namesCancel = true ∧ w = .cellRange ∧ 3 < r.cancelCell ∧ r.cancelCell ≠ 255

theorem routingFails_encode {r : RoutingRecord} {w : Reason} (h : routingFails s k r w) : w.encode ≤ 8 := by
  rcases h with ⟨rfl, -⟩ | ⟨-, ⟨rfl, -⟩ | ⟨rfl, -⟩⟩ | ⟨-, rfl, -⟩ | ⟨-, ⟨rfl, -⟩ | ⟨rfl, -⟩ | ⟨rfl, -⟩ | ⟨rfl, -⟩⟩ <;>
    decide

theorem checkRecord_first (r : SeatRecord) : First (checkRecord s k r) (recordFails s k r) := by
  refine (((checkRouting_first s k r.routing).ifNamed _).or ((checkEcho_first r.echo).ifNamed _) ?_).or
    ((checkCancel_first r.cancelCell).ifNamed _) ?_
  · rintro v w ⟨-, hv⟩ ⟨-, ⟨rfl, -⟩ | ⟨rfl, -⟩⟩
    · exact Nat.lt_succ_of_le (routingFails_encode s k hv)
    · exact Nat.lt_succ_of_le (Nat.le_succ_of_le (routingFails_encode s k hv))
  · rintro v w (⟨-, hv⟩ | ⟨-, ⟨rfl, -⟩ | ⟨rfl, -⟩⟩) ⟨-, rfl, -⟩
    · exact (routingFails_encode s k hv).trans_lt (by decide)
    · decide
    · decide

/-- A slot passes when it is one of the 32 and no other seat holds it. -/
theorem checkSlot_passes (n : Nat) :
    checkSlot s k n = none ↔ ∃ m : SlotNo, n = m.val ∧ (s.slotMap[m] = none ∨ s.slotMap[m] = some k) := by
  unfold checkSlot
  split
  case isTrue hn =>
    have hslot : (∃ m : SlotNo, n = m.val ∧ (s.slotMap[m] = none ∨ s.slotMap[m] = some k)) ↔
        s.slotMap[n] = none ∨ s.slotMap[n] = some k := by
      constructor
      · rintro ⟨m, rfl, hm⟩
        exact hm
      · exact fun h => ⟨⟨n, hn⟩, rfl, h⟩
    rw [hslot]
    cases s.slotMap[n] <;> simp
  case isFalse hn =>
    exact iff_of_false (by simp) fun ⟨m, hm, _⟩ => hn (hm ▸ m.isLt)

theorem checkStream_passes (n : Nat) : checkStream n = none ↔ n < 16 ∨ n = 255 := by
  rw [checkStream, ite_eq_left_iff]
  simp only [reduceCtorEq, imp_false, not_not]

/-- Settles O54: each check is a chain that answers the first failing reason. -/
theorem callRequestChecks : Obligations.CallRequestChecks := by
  unfold Obligations.CallRequestChecks
  refine ⟨?_, fun s k r => ⟨fun htalk => ?_, fun hhold => ?_, fun hidle => ?_⟩⟩
  · intro s k record r m call target fails echo refuses
    have hrouting : First (checkRouting s k r) fails :=
      (checkRouting_first s k r).congr fun w => by
        cases w <;> simp [routingFails, fails, call, target, m]
    have hrecord : First (checkRecord s k record) refuses :=
      (checkRecord_first s k record).congr fun w => by
        cases w <;> simp [recordFails, routingFails, refuses, fails, call, target, m, r, echo]
    exact ⟨hrouting.eq_none_iff, hrouting.eq_some_iff, hrecord.eq_none_iff, hrecord.eq_some_iff⟩
  · simp only [checkRouting, htalk]
    exact checkSlot_passes s k r.nhSlot
  · simp only [checkRouting, hhold, Option.or_eq_none_iff, checkSlot_passes, checkStream_passes]
  · simp only [checkRouting, hidle]

end Sys2Proof.RecordChecks
end

section
/-! What the parts of an adoption do (R7 to R13, R184): which seats and streams they change, what they leave due, and the notices
they hand.  Tails, slots and attachment lists have views of their own (`tailView`, `slotView`, `view`). -/

namespace Sys2Proof.SeatActs

open Sys2Proof.Machine Sys2Proof.Laws Sys2Proof.BusSide Sys2Proof.SlotLaw
open Sys2Proof.TailPool (Account account)

variable {s t u : State} {k : SeatNo} {L M : List NoticeOut}

/-! ## Changes of attachments -/

/-- Settings with the attachments of others. -/
def attachedAs (g h : Settings) : Settings := { g with attachedTo := h.attachedTo, supervisors := h.supervisors }

/-- A seat with the attachments of another. -/
def seatAttachedAs (x y : Seat) : Seat := { x with adopted := attachedAs x.adopted y.adopted }

/-- `t` is `s` with some attachments changed and the notices handed. -/
structure Reattaches (L : List NoticeOut) (s t : State) : Prop where
  state : t = { s with seats := t.seats, io := handAll s.env L s.io }
  seats : ∀ j : SeatNo, t.seats[j] = seatAttachedAs s.seats[j] t.seats[j]

theorem Reattaches.refl (s : State) : Reattaches [] s s := ⟨rfl, fun _ => rfl⟩

theorem Reattaches.env (h : Reattaches L s t) : t.env = s.env := by
  rw [h.state]
  rfl

theorem Reattaches.trans (h : Reattaches L s t) (g : Reattaches M t u) : Reattaches (L ++ M) s u where
  state := by
    have hio : t.io = handAll s.env L s.io := congrArg State.io h.state
    have hu := g.state
    rw [h.env, hio, ← handAll_append, h.state] at hu
    exact hu
  seats j := by
    have hj := g.seats j
    rw [h.seats j] at hj
    exact hj

theorem Reattaches.foldl {α : Type} {f : State → α → State} {n : α → List NoticeOut} (l : List α)
    (h : ∀ s, ∀ a ∈ l, Reattaches (n a) s (f s a)) (s : State) : Reattaches (l.flatMap n) s (l.foldl f s) := by
  induction l generalizing s with
  | nil => exact .refl s
  | cons a l ih =>
    exact (h s a (List.mem_cons_self ..)).trans (ih (fun s b hb => h s b (List.mem_cons_of_mem _ hb)) _)

theorem modAdopted_reattaches {f : Settings → Settings} (hf : ∀ g, f g = attachedAs g (f g)) (s : State) (k : SeatNo) :
    Reattaches [] s (s.modAdopted k f) where
  state := rfl
  seats j := by
    rw [modAdopted_eq, modSeat_get]
    split
    · next hkj =>
      subst hkj
      simp only [seatAttachedAs, ← hf]
    · rfl

theorem hand_reattaches (s : State) (c : Code) (src : Source) (d0 d1 d2 : Word) :
    Reattaches [⟨c, src, d0, d1, d2⟩] s (s.hand c src d0 d1 d2) := ⟨rfl, fun _ => rfl⟩

theorem leaveTarget_reattaches (s : State) (k : SeatNo) : Reattaches [] s (s.leaveTarget k) := by
  unfold State.leaveTarget
  split
  · exact .refl s
  · exact (modAdopted_reattaches (fun _ => rfl) _ _).trans (modAdopted_reattaches (fun _ => rfl) _ _)

theorem attach_reattaches (s : State) (k t : SeatNo) (kind : Kind) (ptt : Bool) :
    Reattaches [] s (s.attach k t kind ptt) :=
  (modAdopted_reattaches (fun _ => rfl) _ _).trans (modAdopted_reattaches (fun _ => rfl) _ _)

theorem reattach_reattaches (s : State) (k t : SeatNo) (kind : Kind) (ptt : Bool) :
    Reattaches [] s (s.reattach k t kind ptt) := modAdopted_reattaches (fun _ => rfl) _ _

/-- The notices of a list that is emptied, first entry then second (R13). -/
def detached (t : SeatNo) (cause : Word) (l : List Attachment) : List NoticeOut :=
  l.map fun a => ⟨.supervisorDetached, .seat a.seat, BitVec.ofNat 32 t.val, cause, 0⟩

theorem detachAll_reattaches (s : State) (t : SeatNo) (cause : Word) :
    Reattaches (detached t cause s.seats[t].adopted.supervisors) s (s.detachAll t cause) := by
  have hone (s : State) (a : Attachment) :
      Reattaches [⟨.supervisorDetached, .seat a.seat, seatWord t, cause, 0⟩] s (detachOne t cause s a) :=
    (modAdopted_reattaches (fun _ => rfl) _ _).trans (hand_reattaches ..)
  have hall := Reattaches.foldl s.seats[t].adopted.supervisors (fun s a _ => hone s a) s
  have hlist := hall.trans (modAdopted_reattaches (f := fun g => { g with supervisors := [] }) (fun _ => rfl) _ t)
  rw [List.append_nil, ← List.map_eq_flatMap] at hlist
  exact hlist

/-! ## Operations on behalf of one seat -/

/-- A stream left as it is. -/
def stand (_ : StreamNo) (st : Stream) : Stream := st

/-- A stream joined, left, or left as it is, as its listener was one and is one. -/
def hear (was is : StreamNo → Bool) (j : StreamNo) (st : Stream) : Stream :=
  if was j = is j then st else if is j then joinStream st else leaveStream st

/-- `t` is what an operation for seat `k` makes of `s`: beside attachments, it changes what is due of the seat and its tail, the
listeners of streams, the Tail Pool and the slots, and hands notices. -/
structure Does (k : SeatNo) (due : Due → Due) (hears : StreamNo → Stream → Stream) (L : List NoticeOut) (s t : State) : Prop where
  state : t = { s with seats := t.seats, streams := t.streams, pool := t.pool, slotMap := t.slotMap
                       io := handAll s.env L s.io }
  streams : ∀ j : StreamNo, t.streams[j] = hears j s.streams[j]
  own : t.seats[k] = { seatAttachedAs s.seats[k] t.seats[k] with
    due := due s.seats[k].due, blocks := t.seats[k].blocks, waiting := t.seats[k].waiting }
  others : ∀ j : SeatNo, j ≠ k → t.seats[j] = seatAttachedAs s.seats[j] t.seats[j]

namespace Does

variable {d d' : Due → Due} {f f' : StreamNo → Stream → Stream}

theorem env (h : Does k d f L s t) : t.env = s.env := by
  rw [h.state]
  rfl

theorem trans (h : Does k d f L s t) (g : Does k d' f' M t u) :
    Does k (fun x => d' (d x)) (fun j st => f' j (f j st)) (L ++ M) s u where
  state := by
    have hio : t.io = handAll s.env L s.io := congrArg State.io h.state
    have hu := g.state
    rw [h.env, hio, ← handAll_append, h.state] at hu
    exact hu
  streams j := by rw [g.streams, h.streams]
  own := by
    have hu := g.own
    rw [h.own] at hu
    exact hu
  others j hj := by
    have hu := g.others j hj
    rw [h.others j hj] at hu
    exact hu

theorem congr (h : Does k d f L s t) (hd : ∀ x, d x = d' x) (hf : ∀ j st, f j st = f' j st) (hL : L = M) :
    Does k d' f' M s t := by
  rw [← hL, ← funext hd, ← funext fun j => funext (hf j)]
  exact h

theorem refl (k : SeatNo) (s : State) : Does k id stand [] s s := ⟨rfl, fun _ => rfl, rfl, fun _ _ => rfl⟩

theorem of_reattaches (k : SeatNo) (h : Reattaches L s t) : Does k id stand L s t where
  state := by
    have ht := h.state
    rw [ht]
  streams j := by rw [h.state]; rfl
  own := by
    have hk := h.seats k
    have hblocks := congrArg Seat.blocks hk
    have hwaiting := congrArg Seat.waiting hk
    rw [hblocks, hwaiting]
    exact hk
  others j _ := h.seats j

/-- One seat changed in what is due and in its tail. -/
theorem modSeat {g : Seat → Seat} (hg : ∀ x, g x = { x with due := d x.due, blocks := (g x).blocks, waiting := (g x).waiting })
    (s : State) (k : SeatNo) (pool : List Nat) : Does k d stand [] s { s.modSeat k g with pool := pool } where
  state := rfl
  streams _ := rfl
  own := by
    have hk : (s.modSeat k g).seats[k] = g s.seats[k] := by rw [modSeat_get, if_pos rfl]
    show (s.modSeat k g).seats[k] = { seatAttachedAs s.seats[k] (s.modSeat k g).seats[k] with
      due := d s.seats[k].due, blocks := (s.modSeat k g).seats[k].blocks, waiting := (s.modSeat k g).seats[k].waiting }
    rw [hk]
    conv_lhs => rw [hg]
    rw [hg]
    rfl
  others j hj := by
    show (s.modSeat k g).seats[j] = seatAttachedAs s.seats[j] (s.modSeat k g).seats[j]
    rw [modSeat_get, if_neg hj.symm]
    rfl

theorem modDue (s : State) (k : SeatNo) (d : Due → Due) : Does k d stand [] s (s.modDue k d) :=
  modSeat (g := fun x => { x with due := d x.due }) (fun _ => rfl) s k s.pool

theorem hand (s : State) (k : SeatNo) (c : Code) (src : Source) (d0 d1 d2 : Word) :
    Does k id stand [⟨c, src, d0, d1, d2⟩] s (s.hand c src d0 d1 d2) := of_reattaches k (hand_reattaches ..)

theorem adopted (h : Does k d f L s t) : t.seats[k].adopted = attachedAs s.seats[k].adopted t.seats[k].adopted := by
  have hk := congrArg Seat.adopted h.own
  exact hk

theorem routing (h : Does k d f L s t) : t.seats[k].adopted.routing = s.seats[k].adopted.routing := by
  have hk := congrArg Settings.routing h.adopted
  exact hk

theorem echo (h : Does k d f L s t) : t.seats[k].adopted.echo = s.seats[k].adopted.echo := by
  have hk := congrArg Settings.echo h.adopted
  exact hk

theorem cadence (h : Does k d f L s t) : t.seats[k].adopted.cadence = s.seats[k].adopted.cadence := by
  have hk := congrArg Settings.cadence h.adopted
  exact hk

end Does

/-! ## The Tail Pool -/

/-- POOL_SHORT for a request that a count of blocks falls short of (R38, R42). -/
def shortOf (k : SeatNo) (a : Account) (n : Nat) : List NoticeOut :=
  if n < a.echo.tailFloor then
    [⟨.poolShort, .seat k, BitVec.ofNat 32 a.echo.tailRequest, BitVec.ofNat 32 a.echo.tailFloor,
      BitVec.ofNat 32 a.pool.length⟩]
  else []

theorem setWaiting_does (s : State) (k : SeatNo) (w : Bool) : Does k id stand [] s (s.setWaiting k w) :=
  Does.modSeat (g := fun x => { x with waiting := w }) (fun _ => rfl) s k s.pool

theorem grantTail_does (s : State) (k : SeatNo) (n : Nat) : Does k id stand [] s (s.grantTail k n) :=
  Does.modSeat (g := fun x => { x with blocks := x.blocks ++ s.pool.take n }) (fun _ => rfl) s k _

theorem releaseTail_does (s : State) (k : SeatNo) (keep : Nat) : Does k id stand [] s (s.releaseTail k keep) :=
  Does.modSeat (g := fun x => { x with blocks := s.seats[k].blocks.take keep }) (fun _ => rfl) s k _

theorem dropTail_does (s : State) (k : SeatNo) : Does k id stand [] s (s.dropTail k) :=
  (releaseTail_does s k 0).trans (setWaiting_does _ k false)

theorem requestTail_does (s : State) (k : SeatNo) (loud : Bool) : Does k id stand
    (if loud then shortOf k (account s k) (min s.seats[k].adopted.echo.tailRequest s.pool.length) else []) s
    (s.requestTail k loud) := by
  unfold State.requestTail shortOf
  extract_lets e n u
  have hu : Does k id stand [] s u := setWaiting_does s k true
  by_cases hn : e.tailFloor ≤ n
  · have hshort : ¬ n < (account s k).echo.tailFloor := Nat.not_lt.2 hn
    rw [if_pos hn, if_neg hshort, ite_self]
    exact (grantTail_does s k n).trans (setWaiting_does _ k false)
  · have hshort : n < (account s k).echo.tailFloor := Nat.not_le.1 hn
    rw [if_neg hn, if_pos hshort]
    cases loud
    · exact hu
    · exact hu.trans (.hand u k ..)

theorem retryTail_does (s : State) (k : SeatNo) : Does k id stand [] s (s.retryTail k) := by
  unfold State.retryTail
  split
  · exact requestTail_does s k false
  · exact .refl k s

theorem growTail_does (s : State) (k : SeatNo) : Does k id stand
    (shortOf k (account s k) (min s.seats[k].adopted.echo.tailRequest (s.seats[k].blocks.length + s.pool.length))) s
    (s.growTail k) := by
  unfold State.growTail shortOf
  extract_lets e held n
  by_cases hn : e.tailFloor ≤ n
  · have hshort : ¬ n < (account s k).echo.tailFloor := Nat.not_lt.2 hn
    rw [if_pos hn, if_neg hshort]
    exact grantTail_does ..
  · have hshort : n < (account s k).echo.tailFloor := Nat.not_le.1 hn
    rw [if_neg hn, if_pos hshort]
    exact .hand s k ..

/-! ## Streams and slots -/

/-- A stream that a number names: 255 and every other number from 16 on name none. -/
def names (n : Nat) (j : StreamNo) : Bool := decide (n = j.val)

theorem joinHold_does (s : State) (k : SeatNo) (n : Nat) :
    Does k id (hear (fun _ => false) (names n)) [] s (s.joinHold n) := by
  unfold State.joinHold
  split
  · next hn =>
    refine ⟨rfl, fun j => ?_, rfl, fun _ _ => rfl⟩
    rw [modStream_get]
    by_cases hj : n = j.val
    · simp [hear, names, hj]
    · have hne : (⟨n, hn⟩ : StreamNo) ≠ j := fun h => hj (congrArg Fin.val h)
      simp [hear, names, hj, hne]
  · next hn =>
    refine (Does.refl k s).congr (fun _ => rfl) (fun j st => ?_) rfl
    have hj : n ≠ j.val := fun h => hn (h ▸ j.isLt)
    simp [stand, hear, names, hj]

theorem leaveHold_does (s : State) (k : SeatNo) (n : Nat) :
    Does k id (hear (names n) fun _ => false) [] s (s.leaveHold n) := by
  unfold State.leaveHold
  split
  · next hn =>
    refine ⟨rfl, fun j => ?_, rfl, fun _ _ => rfl⟩
    rw [modStream_get]
    by_cases hj : n = j.val
    · simp [hear, names, hj]
    · have hne : (⟨n, hn⟩ : StreamNo) ≠ j := fun h => hj (congrArg Fin.val h)
      simp [hear, names, hj, hne]
  · next hn =>
    refine (Does.refl k s).congr (fun _ => rfl) (fun j st => ?_) rfl
    have hj : n ≠ j.val := fun h => hn (h ▸ j.isLt)
    simp [stand, hear, names, hj]

theorem freeSlots_does (s : State) (k : SeatNo) (keep : Option Nat) : Does k id stand [] s (s.freeSlots k keep) :=
  ⟨rfl, fun _ => rfl, rfl, fun _ _ => rfl⟩

theorem claimSlot_does (s : State) (k : SeatNo) (n : Nat) : Does k id stand [] s (s.claimSlot k n) := by
  unfold State.claimSlot
  split
  · exact ⟨rfl, fun _ => rfl, rfl, fun _ _ => rfl⟩
  · exact .refl k s

/-! ## Changes of mode -/

/-- The streams that settings listen to. -/
theorem listensTo_eq (g : Settings) (j : StreamNo) :
    g.listensTo j = (decide (g.routing.mode = .hold) && names g.routing.holdStream j) := rfl

theorem hear_self (was : StreamNo → Bool) (j : StreamNo) (st : Stream) : hear was was j st = st := if_pos rfl

/-- What entering HOLD leaves due (R131). -/
def startDue (remind : Bool) (d : Due) : Due := { d with reminder := if remind then some true else d.reminder }

/-- What leaving HOLD leaves due (R132). -/
def stopDue (d : Due) : Due := { d with reminder := some false }

theorem enterHold_does (s : State) (k : SeatNo) :
    Does k (startDue s.seats[k].adopted.cadence.reminderEnable)
      (hear (fun _ => false) (names s.seats[k].adopted.routing.holdStream)) [] s (s.enterHold k) := by
  unfold State.enterHold
  extract_lets g u
  have hu := joinHold_does s k g.routing.holdStream
  show Does k (startDue g.cadence.reminderEnable) (hear (fun _ => false) (names g.routing.holdStream)) [] s _
  cases g.cadence.reminderEnable
  · exact hu
  · exact hu.trans (.modDue u k _)

theorem exitHold_does (s : State) (k : SeatNo) (old : Settings) :
    Does k (if old.routing.mode = .hold then stopDue else id) (hear old.listensTo fun _ => false) [] s (s.exitHold k old) := by
  unfold State.exitHold
  split
  · next hhold =>
    refine ((leaveHold_does s k _).trans (.modDue _ k _)).congr (fun _ => rfl) (fun j st => ?_) rfl
    simp [stand, hear, listensTo_eq, hhold]
  · next hhold =>
    refine (Does.refl k s).congr (fun _ => rfl) (fun j st => ?_) rfl
    simp [stand, hear, listensTo_eq, hhold]

theorem leaveCall_does (s : State) (k : SeatNo) (old : Settings) :
    Does k (if old.routing.mode = .hold then stopDue else id) (hear old.listensTo fun _ => false) [] s
      (s.leaveCall k old) := by
  unfold State.leaveCall
  by_cases hcall : old.routing.mode.holdsSlot = true
  · rw [if_pos hcall]
    exact ((exitHold_does s k old).trans (freeSlots_does _ k none)).trans (dropTail_does _ k)
  · have hhold : old.routing.mode ≠ .hold := fun h => hcall (by rw [h]; rfl)
    rw [if_neg hcall, if_neg hhold]
    refine (Does.refl k s).congr (fun _ => rfl) (fun j st => ?_) rfl
    simp [stand, hear, listensTo_eq, hhold]

theorem exitIdle_does (s : State) (k : SeatNo) (old : Settings) :
    Does k (fun d => { d with initSuppressor := d.initSuppressor || decide (old.routing.mode = .idle) }) stand [] s
      (s.exitIdle k old) := by
  unfold State.exitIdle
  split
  · next hidle => exact (Does.modDue s k _).congr (fun d => by simp [hidle]) (fun _ _ => rfl) rfl
  · next hidle => exact (Does.refl k s).congr (fun d => by simp [hidle]) (fun _ _ => rfl) rfl

/-- The seat leaves the list that its settings before say it stands on. -/
theorem ite_leaveTarget_does (s : State) (k : SeatNo) (p : Prop) [Decidable p] :
    Does k id stand [] s (if p then s.leaveTarget k else s) := by
  split
  · exact .of_reattaches k (leaveTarget_reattaches s k)
  · exact .refl k s

/-- What entering IDLE leaves due. -/
def idleDue (old : Settings) (d : Due) : Due :=
  { (if old.routing.mode = .hold then stopDue d else d) with clearKeyMute := true }

theorem enterIdle_does (s : State) (k : SeatNo) (old : Settings) :
    Does k (idleDue old) (hear old.listensTo fun _ => false)
      (if old.routing.mode.holdsSlot = true then detached k 1 s.seats[k].adopted.supervisors else []) s
      (s.enterIdle k old) := by
  unfold State.enterIdle
  extract_lets a b c
  have ha := leaveCall_does s k old
  have hlist : a.seats[k].adopted.supervisors = s.seats[k].adopted.supervisors :=
    congrFun (congrArg SupervisionLaw.View.list (SupervisionLaw.view_leaveCall s k old)) k
  have hb : Does k id stand
      (if old.routing.mode.holdsSlot = true then detached k 1 s.seats[k].adopted.supervisors else []) a b := by
    unfold b
    split
    · exact hlist ▸ .of_reattaches k (detachAll_reattaches a k 1)
    · exact .refl k a
  refine (((ha.trans hb).trans (ite_leaveTarget_does b k _)).trans (.modDue c k _)).congr (fun d => ?_) (fun _ _ => rfl) ?_
  · unfold idleDue
    split <;> rfl
  · rw [List.append_nil, List.append_nil]
    rfl

/-- The streams that ROUTING settings listen to. -/
def listens (r : Routing) (j : StreamNo) : Bool := decide (r.mode = .hold) && names r.holdStream j

/-- The blocks that a request for a tail can be granted (R38). -/
def reach (a : Account) : Nat := min a.echo.tailRequest a.pool.length

theorem enterCall_does {old : Settings} {r : Routing} (hs : s.seats[k].adopted.routing = r) :
    Does k (fun d => { d with
        initSuppressor := d.initSuppressor || decide (old.routing.mode = .idle)
        reminder := if r.mode = .hold ∧ s.seats[k].adopted.cadence.reminderEnable = true then some true else d.reminder })
      (hear (fun _ => false) (listens r))
      (if s.seats[k].adopted.echo.enable then shortOf k (account s k) (reach (account s k)) else []) s
      (s.enterCall k old r).1 := by
  unfold State.enterCall
  extract_lets a b asks c e
  have hb : Does k id stand [] s b := (ite_leaveTarget_does s k _).trans (claimSlot_does a k _)
  have hview : TailPool.tailView b = TailPool.tailView s := by simp [b, a, apply_ite TailPool.tailView]
  have hacc : account b k = account s k := congrArg (fun v => v.account k) hview
  have hc : Does k id stand (if s.seats[k].adopted.echo.enable then shortOf k (account s k) (reach (account s k)) else [])
      b c := by
    unfold c asks
    rw [hb.echo]
    by_cases henable : s.seats[k].adopted.echo.enable = true
    · rw [if_pos henable, if_pos henable, ← hacc]
      exact requestTail_does b k true
    · rw [if_neg henable, if_neg henable]
      exact .refl k b
  have he := (hb.trans hc).trans (exitIdle_does c k old)
  dsimp only
  by_cases hhold : r.mode = .hold
  · rw [if_pos hhold]
    have henter := enterHold_does e k
    rw [he.cadence, he.routing, hs] at henter
    refine (he.trans henter).congr (fun d => ?_) (fun j st => ?_) (by simp)
    · simp [startDue, hhold]
    · simp [stand, hear, listens, hhold]
  · rw [if_neg hhold]
    refine he.congr (fun d => ?_) (fun j st => ?_) (by simp)
    · simp [hhold]
    · simp [stand, hear, listens, hhold]

/-- What a change within TALK and HOLD leaves due of the reminder. -/
def changeDue (old : Settings) (r : Routing) (remind : Bool) (d : Due) : Due :=
  { d with
    reminder := if r.mode = .hold ∧ old.routing.mode ≠ .hold ∧ remind = true then some true
      else if old.routing.mode = .hold ∧ r.mode ≠ .hold then some false else d.reminder }

theorem changeHold_does {old : Settings} {r : Routing} (hs : s.seats[k].adopted.routing = r)
    (hold : old.routing.mode.holdsSlot = true) (hnew : r.mode.holdsSlot = true) :
    Does k (changeDue old r s.seats[k].adopted.cadence.reminderEnable) (hear old.listensTo (listens r)) [] s
      (s.changeHold k old r) := by
  unfold State.changeHold
  cases hwas : old.routing.mode <;> cases his : r.mode
  case talk.talk =>
    exact (Does.refl k s).congr (fun d => by simp [changeDue, hwas, his])
      (fun j st => by simp [stand, hear, listensTo_eq, listens, hwas, his]) rfl
  case talk.hold =>
    refine (enterHold_does s k).congr (fun d => by simp [changeDue, startDue, hwas, his]) (fun j st => ?_) rfl
    rw [hs]
    simp [hear, listensTo_eq, listens, hwas, his]
  case hold.talk =>
    refine (exitHold_does s k old).congr (fun d => by simp [changeDue, stopDue, hwas, his]) (fun j st => ?_) rfl
    simp [hear, listensTo_eq, listens, hwas, his]
  case hold.hold =>
    have hdue (d : Due) : id d = changeDue old r s.seats[k].adopted.cadence.reminderEnable d := by
      simp [changeDue, hwas, his]
    dsimp only
    by_cases hsame : old.routing.holdStream = r.holdStream
    · rw [if_pos hsame]
      exact (Does.refl k s).congr hdue (fun j st => by simp [stand, hear, listensTo_eq, listens, hwas, his, hsame]) rfl
    · rw [if_neg hsame]
      refine ((leaveHold_does s k _).trans (joinHold_does _ k _)).congr hdue (fun j st => ?_) rfl
      by_cases hleft : old.routing.holdStream = j.val
      · have hjoin : r.holdStream ≠ j.val := fun h => hsame (hleft.trans h.symm)
        simp [hear, listensTo_eq, listens, names, hwas, his, hleft, hjoin]
      · simp [hear, listensTo_eq, listens, names, hwas, his, hleft]
  all_goals simp [hwas, his, Mode.holdsSlot] at hold hnew

theorem moveSlot_does (s : State) (k : SeatNo) (old : Settings) (r : Routing) :
    Does k id stand [] s (s.moveSlot k old r) := by
  unfold State.moveSlot
  split
  · exact .refl k s
  · exact (claimSlot_does s k _).trans (freeSlots_does _ k _)

theorem stayInCall_does {old : Settings} {r : Routing} (hs : s.seats[k].adopted.routing = r)
    (hold : old.routing.mode.holdsSlot = true) (hnew : r.mode.holdsSlot = true) :
    Does k (changeDue old r s.seats[k].adopted.cadence.reminderEnable) (hear old.listensTo (listens r)) [] s
      (s.stayInCall k old r) :=
  (changeHold_does hs hold hnew).trans (moveSlot_does _ k old r)

/-- What entering SUPERVISE leaves due. -/
def superviseDue (old : Settings) (d : Due) : Due :=
  { (if old.routing.mode = .hold then stopDue d else d) with
    initSuppressor := d.initSuppressor || decide (old.routing.mode = .idle) }

theorem supervise_does {old : Settings} {r : Routing} (hsup : supervisesSeat r) (hnew : r.mode = .supervise) :
    Does k (superviseDue old) (hear old.listensTo fun _ => false) [] s (s.supervise k old r) := by
  obtain ⟨kind, t, hkind, ht⟩ := hsup hnew
  unfold State.supervise
  simp only [hkind, ht, t.isLt, dif_pos, Fin.eta]
  by_cases hwas : old.routing.mode = .supervise
  · have hstay (u : State) (h : Reattaches [] s u) : Does k (superviseDue old) (hear old.listensTo fun _ => false) [] s u :=
      (Does.of_reattaches k h).congr (fun d => by simp [superviseDue, hwas])
        (fun j st => by simp [stand, hear, listensTo_eq, hwas]) rfl
    rw [if_pos hwas]
    split
    · exact hstay _ (reattach_reattaches ..)
    · exact hstay _ ((leaveTarget_reattaches s k).trans (attach_reattaches ..))
  · rw [if_neg hwas]
    refine (((leaveCall_does s k old).trans (exitIdle_does _ k old)).trans
      (.of_reattaches k (attach_reattaches ..))).congr (fun d => ?_) (fun _ _ => rfl) rfl
    unfold superviseDue
    split <;> rfl

/-- Step 2 of an adoption (R184) after the settings are in place: `State.applyRouting` without its first line. -/
def followRouting (s : State) (k : SeatNo) (old : Settings) (r : Routing) : State × Bool :=
  let s := if old.routing.keyMuteAllowed && !r.keyMuteAllowed then
      s.modDue k fun d => { d with clearKeyMute := true } else s
  match r.mode with
  | .idle => (if old.routing.mode = .idle then s else s.enterIdle k old, false)
  | .supervise => (s.supervise k old r, false)
  | .talk | .hold =>
    if old.routing.mode.holdsSlot then (s.stayInCall k old r, false) else s.enterCall k old r

theorem applyRouting_eq (s : State) (k : SeatNo) (old : Settings) (r : Routing) :
    s.applyRouting k old r = followRouting (s.modAdopted k fun g => { g with routing := r }) k old r := rfl

/-- What a change of mode leaves due (R16, R64, R131, R132). -/
def routedDue (old : Settings) (r : Routing) (remind : Bool) (d : Due) : Due :=
  { d with
    clearKeyMute := d.clearKeyMute || (old.routing.keyMuteAllowed && !r.keyMuteAllowed) ||
      (decide (old.routing.mode ≠ .idle) && decide (r.mode = .idle))
    initSuppressor := d.initSuppressor || (decide (old.routing.mode = .idle) && decide (r.mode ≠ .idle))
    reminder := if r.mode = .hold ∧ old.routing.mode ≠ .hold ∧ remind = true then some true
      else if old.routing.mode = .hold ∧ r.mode ≠ .hold then some false else d.reminder }

/-- The notices of a change of mode (R13, R38). -/
def routedNotices (k : SeatNo) (old : Settings) (r : Routing) (list : List Attachment) (a : Account) : List NoticeOut :=
  (if old.routing.mode.holdsSlot = true ∧ r.mode = .idle then detached k 1 list else []) ++
    if old.routing.mode.holdsSlot = false ∧ r.mode.holdsSlot = true ∧ a.echo.enable = true then
      shortOf k a (reach a) else []

theorem followRouting_does {old : Settings} {r : Routing} (hs : s.seats[k].adopted.routing = r) (hsup : supervisesSeat r) :
    Does k (routedDue old r s.seats[k].adopted.cadence.reminderEnable) (hear old.listensTo (listens r))
      (routedNotices k old r s.seats[k].adopted.supervisors (account s k)) s (followRouting s k old r).1 := by
  unfold followRouting
  extract_lets u
  have hu : Does k (fun d => { d with clearKeyMute := d.clearKeyMute ||
      (old.routing.keyMuteAllowed && !r.keyMuteAllowed) }) stand [] s u := by
    unfold u
    split
    · next h => exact (Does.modDue s k _).congr (fun d => by simp [h]) (fun _ _ => rfl) rfl
    · next h => exact (Does.refl k s).congr (fun d => by simp [h]) (fun _ _ => rfl) rfl
  have hus : u.seats[k].adopted.routing = r := hu.routing.trans hs
  have hlist : u.seats[k].adopted.supervisors = s.seats[k].adopted.supervisors := by
    have hview : SupervisionLaw.view u = SupervisionLaw.view s := by simp [u, apply_ite SupervisionLaw.view]
    exact congrFun (congrArg SupervisionLaw.View.list hview) k
  have hacc : account u k = account s k := by
    have hview : TailPool.tailView u = TailPool.tailView s := by simp [u, apply_ite TailPool.tailView]
    exact congrArg (fun v => v.account k) hview
  cases hmode : r.mode with
  | idle =>
    by_cases hidle : old.routing.mode = .idle
    · simp only [if_pos hidle]
      exact hu.congr (fun d => by simp [routedDue, hmode, hidle])
        (fun j st => by simp [stand, hear, listens, listensTo_eq, hmode, hidle])
        (by simp [routedNotices, hmode, hidle, Mode.holdsSlot])
    · simp only [if_neg hidle]
      refine (hu.trans (enterIdle_does u k old)).congr (fun d => ?_)
        (fun j st => by simp [stand, hear, listens, hmode]) ?_
      · by_cases hhold : old.routing.mode = .hold <;> simp [routedDue, idleDue, stopDue, hmode, hidle, hhold]
      · have hcall : Mode.idle.holdsSlot = false := rfl
        rw [hlist]
        simp [routedNotices, hmode, hcall]
  | supervise =>
    refine (hu.trans (supervise_does hsup hmode)).congr (fun d => ?_)
      (fun j st => by simp [stand, hear, listens, hmode]) (by simp [routedNotices, hmode, Mode.holdsSlot])
    by_cases hhold : old.routing.mode = .hold <;> simp [routedDue, superviseDue, stopDue, hmode, hhold]
  | _ =>
    have hnew : r.mode.holdsSlot = true := by rw [hmode]; rfl
    cases hold : old.routing.mode.holdsSlot
    · have hnohold : old.routing.mode ≠ .hold := fun h => by simp [h, Mode.holdsSlot] at hold
      refine (hu.trans (enterCall_does hus)).congr (fun d => ?_) (fun j st => ?_) ?_
      · rw [hu.cadence]
        simp [routedDue, hmode, hnohold]
      · simp [stand, hear, listensTo_eq, hnohold]
      · rw [hu.echo, hacc]
        rw [hmode] at hnew
        simp [routedNotices, hold, hmode, hnew]
    · have hnoidle : old.routing.mode ≠ .idle := fun h => by simp [h, Mode.holdsSlot] at hold
      refine (hu.trans (stayInCall_does hus hold hnew)).congr (fun d => ?_) (fun j st => rfl) ?_
      · rw [hu.cadence]
        simp [routedDue, changeDue, hmode, hnoidle]
      · simp [routedNotices, hold, hmode]

/-! ## The ECHO group -/

/-- The blocks that a growing tail can reach (R42). -/
def grown (a : Account) : Nat := min a.echo.tailRequest (a.blocks.length + a.pool.length)

theorem resizeTail_does (s : State) (k : SeatNo) (old : Nat) : Does k id stand
    (if old < s.seats[k].adopted.echo.tailRequest ∧ s.seats[k].blocks.length < s.seats[k].adopted.echo.tailRequest then
      shortOf k (account s k) (grown (account s k)) else []) s (s.resizeTail k old) := by
  unfold State.resizeTail
  extract_lets request held
  show Does k id stand (if old < request ∧ held < request then shortOf k (account s k) (grown (account s k)) else []) s _
  by_cases hshrinks : request < held
  · have hgrows : ¬ (old < request ∧ held < request) := fun h => Nat.lt_asymm hshrinks h.2
    rw [if_pos hshrinks, if_neg hgrows]
    exact releaseTail_does s k request
  · rw [if_neg hshrinks]
    by_cases hgrows : old < request ∧ held < request
    · rw [if_pos hgrows, if_pos hgrows]
      exact growTail_does s k
    · rw [if_neg hgrows, if_neg hgrows]
      exact .refl k s

/-- The taps that an ECHO group leaves due to be zeroed (R34). -/
def echoDue (a : Account) (old new : Echo) (clear asked : Bool) (d : Due) : Due :=
  { d with zeroTaps := d.zeroTaps || (a.calls && !asked && new.enable && !a.blocks.isEmpty &&
      (clear || decide (old.bulkDelay ≠ new.bulkDelay))) }

/-- The notices of an ECHO group (R38, R42). -/
def echoNotices (k : SeatNo) (a : Account) (old new : Echo) (asked : Bool) : List NoticeOut :=
  if (a.calls && !asked && new.enable) = true then
    if a.blocks.isEmpty then shortOf k a (reach a)
    else if old.tailRequest < a.echo.tailRequest ∧ a.blocks.length < a.echo.tailRequest then shortOf k a (grown a)
    else []
  else []

theorem applyEcho_does (s : State) (k : SeatNo) (old new : Echo) (clear asked : Bool) :
    Does k (echoDue (account s k) old new clear asked) stand (echoNotices k (account s k) old new asked) s
      (s.applyEcho k old new clear asked).1 := by
  unfold State.applyEcho
  show Does k _ stand _ s (if ((account s k).calls && !asked) = true then _ else _ : State × Bool).1
  unfold echoDue echoNotices
  by_cases hcall : ((account s k).calls && !asked) = true
  · rw [if_pos hcall, hcall]
    cases new.enable
    · exact (dropTail_does s k).congr (fun d => by simp) (fun _ _ => rfl) rfl
    · show Does k _ stand _ s (if (account s k).blocks.isEmpty = true then _ else _ : State × Bool).1
      by_cases hblocks : (account s k).blocks.isEmpty = true
      · rw [if_pos hblocks, hblocks]
        exact (requestTail_does s k true).congr (fun d => by simp) (fun _ _ => rfl) rfl
      · rw [if_neg hblocks, Bool.eq_false_of_not_eq_true hblocks]
        have hresize := resizeTail_does s k old.tailRequest
        cases (clear || decide (old.bulkDelay ≠ new.bulkDelay))
        · exact hresize.congr (fun d => by simp) (fun _ _ => rfl) rfl
        · exact (hresize.trans (.modDue _ k fun d => { d with zeroTaps := true })).congr (fun d => by simp) (fun _ _ => rfl) (List.append_nil _)
  · rw [if_neg hcall, Bool.eq_false_of_not_eq_true hcall]
    exact (Does.refl k s).congr (fun d => by simp) (fun _ _ => rfl) rfl

end Sys2Proof.SeatActs
end

section
/-! A seat record that is taken (R184), and a seat taken out of service (R1): what becomes of the seat, of the other seats, of the
streams, and the notices (`Takes`). -/

namespace Sys2Proof.RecordTaken

open Sys2Proof.Machine Sys2Proof.Laws Sys2Proof.BusSide Sys2Proof.SlotLaw Sys2Proof.SeatActs
open Sys2Proof.TailPool (Account account tailView)

variable {s t u w : State} {k : SeatNo} {L M : List NoticeOut} {set : Settings → Settings} {due d d' : Due → Due}
  {mark : PromptUnit → PromptUnit} {edition : Option Word} {f : StreamNo → Stream → Stream}

/-- `t` is what a record, or leaving service, makes of `s` for seat `k`: `Does` with new settings, marks in the play order and an
edition. -/
structure Takes (k : SeatNo) (set : Settings → Settings) (due : Due → Due) (mark : PromptUnit → PromptUnit)
    (edition : Option Word) (hears : StreamNo → Stream → Stream) (L : List NoticeOut) (s t : State) : Prop where
  state : t = { s with seats := t.seats, streams := t.streams, pool := t.pool, slotMap := t.slotMap
                       io := handAll s.env L s.io }
  streams : ∀ j : StreamNo, t.streams[j] = hears j s.streams[j]
  own : t.seats[k] = { s.seats[k] with
    edition := edition, adopted := attachedAs (set s.seats[k].adopted) t.seats[k].adopted, due := due s.seats[k].due
    blocks := t.seats[k].blocks, waiting := t.seats[k].waiting, prompt := mark s.seats[k].prompt }
  others : ∀ j : SeatNo, j ≠ k → t.seats[j] = seatAttachedAs s.seats[j] t.seats[j]

namespace Takes

/-- New settings, then an operation for the seat, then its marks and its edition. -/
theorem of_does (hdoes : Does k d f L (s.modAdopted k set) w) {fin : Seat → Seat}
    (hfin : ∀ x, fin x = { x with edition := edition, due := d' x.due, prompt := mark x.prompt }) :
    Takes k set (fun x => d' (d x)) mark edition f L s (w.modSeat k fin) where
  state := by
    rw [hdoes.state]
    rfl
  streams := hdoes.streams
  own := by
    have hown := hdoes.own
    rw [modAdopted_eq, modSeat_get, if_pos rfl] at hown
    rw [modSeat_get, if_pos rfl, hfin, hown]
    rfl
  others j hj := by
    have hother := hdoes.others j hj
    rw [modAdopted_eq, modSeat_get, if_neg hj.symm] at hother
    rw [modSeat_get, if_neg hj.symm]
    exact hother

/-- The retry of a seat after its record (R39). -/
theorem tail (h : Takes k set due mark edition f L s t) (g : Does k id stand [] t u) :
    Takes k set due mark edition f L s u where
  state := by
    have hu := g.state
    rw [h.state] at hu
    exact hu
  streams j := by rw [g.streams, h.streams]; rfl
  own := by
    have hu := g.own
    rw [h.own] at hu
    exact hu
  others j hj := by
    have hu := g.others j hj
    rw [h.others j hj] at hu
    exact hu

theorem congr {set' : Settings → Settings} {due' : Due → Due} {mark' : PromptUnit → PromptUnit}
    {f' : StreamNo → Stream → Stream} (h : Takes k set due mark edition f L s t) (hset : ∀ g, set g = set' g)
    (hdue : ∀ x, due x = due' x) (hmark : ∀ p, mark p = mark' p) (hf : ∀ j st, f j st = f' j st) (hL : L = M) :
    Takes k set' due' mark' edition f' M s t := by
  rw [← hL, ← funext hset, ← funext hdue, ← funext hmark, ← funext fun j => funext (hf j)]
  exact h

end Takes

/-! ## Adopted records -/

/-- The settings that a record leaves a seat with, but for its attachments. -/
def settingsAfter (s : State) (k : SeatNo) (r : SeatRecord) (g : Settings) : Settings :=
  { storeGroups r g with routing := routingAfter s k r }

/-- The account of a seat when its record's change of mode has been made. -/
def accountRouted (s : State) (k : SeatNo) (r : SeatRecord) : Account :=
  ((account s k).store (TailPool.echoOf r)).route (routingAfter s k r).mode.holdsSlot

/-- Whether the record's change of mode asks the Tail Pool. -/
def routingAsks (s : State) (k : SeatNo) (r : SeatRecord) : Bool :=
  ((account s k).store (TailPool.echoOf r)).routeAsks (routingAfter s k r).mode.holdsSlot

/-- What a CADENCE group leaves due (R131, R132, R138). -/
def cadenceDue (hold : Bool) (old new : Cadence) (restart : Bool) (d : Due) : Due :=
  { d with
    reminder := if (hold && new.reminderEnable && (!old.reminderEnable || restart)) = true then some true
      else if (old.reminderEnable && !new.reminderEnable) = true then some false else d.reminder
    newPeriod := decide (old.halfPeriod ≠ new.halfPeriod) }

/-- What a record leaves due, group by group (R184). -/
def recordDue (s : State) (k : SeatNo) (r : SeatRecord) (d : Due) : Due :=
  let old := s.seats[k].adopted
  let d1 := routedDue old (routingAfter s k r) (storeGroups r old).cadence.reminderEnable d
  let d2 := if r.namesEcho then
    echoDue (accountRouted s k r) old.echo r.echo r.clearTaps (routingAsks s k r) d1 else d1
  if r.namesCadence then
    cadenceDue (decide ((routingAfter s k r).mode = .hold)) old.cadence r.cadence r.restart d2 else d2

/-- The cancel marks of a record (R124). -/
def recordMark (r : SeatRecord) (p : PromptUnit) : PromptUnit :=
  if r.namesCancel then p.markWhere .cancelled fun c => r.cancelAll || decide (c.val = r.cancelCell) else p

/-- The notices of a record (R13, R38, R42). -/
def recordNotices (s : State) (k : SeatNo) (r : SeatRecord) : List NoticeOut :=
  let old := s.seats[k].adopted
  routedNotices k old (routingAfter s k r) old.supervisors ((account s k).store (TailPool.echoOf r)) ++
    if r.namesEcho then echoNotices k (accountRouted s k r) old.echo r.echo (routingAsks s k r) else []

theorem routedDue_self (old : Settings) (remind : Bool) (d : Due) : routedDue old old.routing remind d = d := by
  by_cases hhold : old.routing.mode = .hold <;> simp [routedDue, hhold]

theorem routedNotices_self (k : SeatNo) (old : Settings) (l : List Attachment) (a : Account) :
    routedNotices k old old.routing l a = [] := by
  have hidle : ¬ (old.routing.mode.holdsSlot = true ∧ old.routing.mode = .idle) := by
    rintro ⟨hcall, hidle⟩
    simp [hidle, Mode.holdsSlot] at hcall
  have hcall : ¬ (old.routing.mode.holdsSlot = false ∧ old.routing.mode.holdsSlot = true ∧ a.echo.enable = true) := by
    rintro ⟨hno, hyes, -⟩
    exact Bool.false_ne_true (hno.symm.trans hyes)
  rw [routedNotices, if_neg hidle, if_neg hcall]
  rfl

theorem modSeat_modSeat (s : State) (k : SeatNo) (f g : Seat → Seat) :
    (s.modSeat k f).modSeat k g = s.modSeat k fun x => g (f x) := by
  simp [State.modSeat]

theorem modSeat_congr {f g : Seat → Seat} (h : f s.seats[k] = g s.seats[k]) : s.modSeat k f = s.modSeat k g := by
  rw [State.modSeat, State.modSeat, h]

theorem settingsAfter_echo (s : State) (k : SeatNo) (r : SeatRecord) :
    (settingsAfter s k r s.seats[k].adopted).echo = ((account s k).store (TailPool.echoOf r)).echo := by
  unfold settingsAfter storeGroups Account.store TailPool.echoOf
  split <;> rfl

/-- The account of a seat whose new settings are in place. -/
theorem account_settingsAfter (s : State) (k : SeatNo) (r : SeatRecord) :
    account (s.modAdopted k (settingsAfter s k r)) k =
      { (account s k).store (TailPool.echoOf r) with calls := (routingAfter s k r).mode.holdsSlot } := by
  rw [TailPool.account_of_put (TailPool.tailView_modAdopted_put (settingsAfter s k r)), settingsAfter_echo]
  rfl

/-- Steps 1 and 2 of an adoption (R184). -/
theorem routing_does {r : SeatRecord} (hcheck : r.namesRouting = true → checkRouting s k r.routing = none) :
    Does k (routedDue s.seats[k].adopted (routingAfter s k r) (storeGroups r s.seats[k].adopted).cadence.reminderEnable)
      (hear s.seats[k].adopted.listensTo (listens (routingAfter s k r)))
      (routedNotices k s.seats[k].adopted (routingAfter s k r) s.seats[k].adopted.supervisors
        ((account s k).store (TailPool.echoOf r)))
      (s.modAdopted k (settingsAfter s k r))
      (if r.namesRouting = true then
        (s.modAdopted k (storeGroups r)).applyRouting k s.seats[k].adopted r.routing.adopt
        else (s.modAdopted k (storeGroups r), false)).1 := by
  by_cases hnames : r.namesRouting = true
  · have hrouting : routingAfter s k r = r.routing.adopt := if_pos hnames
    have hsettings : (s.modAdopted k (storeGroups r)).modAdopted k (fun g => { g with routing := r.routing.adopt }) =
        s.modAdopted k (settingsAfter s k r) := by
      unfold settingsAfter
      rw [← hrouting]
      exact modSeat_modSeat ..
    rw [if_pos hnames, applyRouting_eq, hsettings]
    have hu : (s.modAdopted k (settingsAfter s k r)).seats[k].adopted = settingsAfter s k r s.seats[k].adopted := by
      rw [modAdopted_eq, modSeat_get, if_pos rfl]
    have hdoes := followRouting_does (s := s.modAdopted k (settingsAfter s k r)) (k := k) (old := s.seats[k].adopted)
      (r := routingAfter s k r) (by rw [hu]; rfl)
      (hrouting ▸ supervisesSeat_of_checkRouting (hcheck hnames))
    rw [account_settingsAfter, hu] at hdoes
    rw [← hrouting]
    exact hdoes
  · have hrouting : routingAfter s k r = s.seats[k].adopted.routing := if_neg hnames
    have hsame : s.modAdopted k (storeGroups r) = s.modAdopted k (settingsAfter s k r) := by
      refine modSeat_congr ?_
      rw [settingsAfter, hrouting]
      rfl
    rw [if_neg hnames, hsame, hrouting, routedNotices_self]
    exact (Does.refl k _).congr (fun d => (routedDue_self _ _ d).symm) (fun j st => (hear_self _ j st).symm) rfl

theorem applyCadence_eq (s : State) (k : SeatNo) (old new : Cadence) (restart : Bool) :
    s.applyCadence k old new restart =
      s.modDue k (cadenceDue (decide (s.seats[k].adopted.routing.mode = .hold)) old new restart) := rfl

theorem adoptSeat_takes {r : SeatRecord} (e : Word) (hcheck : checkRecord s k r = none) :
    Takes k (settingsAfter s k r) (recordDue s k r) (recordMark r) (some e)
      (hear s.seats[k].adopted.listensTo (listens (routingAfter s k r))) (recordNotices s k r) s
      (s.adoptSeat k e r).1 := by
  unfold State.adoptSeat
  extract_lets old u x y z v
  have hx : Does k _ _ _ (s.modAdopted k (settingsAfter s k r)) x.1 := routing_does (checkRouting_of_checkRecord hcheck)
  have hasked : TailPool.askedView x = _ :=
    TailPool.askedView_routing (TailPool.tailView_storeGroups s k r) rfl (checkRouting_of_checkRecord hcheck)
  obtain ⟨hview, hasks⟩ := Prod.ext_iff.1 hasked
  have hacc : account x.1 k = accountRouted s k r := TailPool.account_of_put hview
  have hasks : x.2 = routingAsks s k r := hasks
  have hy : Does k (fun d => if r.namesEcho then
      echoDue (accountRouted s k r) old.echo r.echo r.clearTaps (routingAsks s k r) d else d) stand
      (if r.namesEcho then echoNotices k (accountRouted s k r) old.echo r.echo (routingAsks s k r) else []) x.1 y.1 := by
    unfold y
    rw [hasks, ← hacc]
    split
    · exact applyEcho_does ..
    · exact .refl k x.1
  have hrouting : y.1.seats[k].adopted.routing = routingAfter s k r := by
    rw [hy.routing, hx.routing, modAdopted_eq, modSeat_get, if_pos rfl]
    rfl
  have hfin : v.takeEdition k e = y.1.modSeat k fun x => { x with
      edition := some e
      due := if r.namesCadence then
        cadenceDue (decide ((routingAfter s k r).mode = .hold)) old.cadence r.cadence r.restart x.due else x.due
      prompt := recordMark r x.prompt } := by
    unfold v z State.takeEdition recordMark
    rw [← hrouting, applyCadence_eq]
    cases r.namesCadence <;> cases r.namesCancel
    · rfl
    · simp only [Bool.false_eq_true, if_true, if_false]
      exact modSeat_modSeat ..
    · simp only [Bool.false_eq_true, if_true, if_false]
      exact modSeat_modSeat ..
    · simp only [if_true]
      exact (modSeat_modSeat ..).trans (modSeat_modSeat ..)
  rw [hfin]
  exact (Takes.of_does (d' := fun d => if r.namesCadence then
      cadenceDue (decide ((routingAfter s k r).mode = .hold)) old.cadence r.cadence r.restart d else d)
    (hx.trans hy) fun _ => rfl).congr (fun _ => rfl) (fun _ => rfl) (fun _ => rfl) (fun _ _ => rfl) rfl

theorem takeSeat_takes {r : SeatRecord} (e : Word) (hcheck : checkRecord s k r = none) :
    Takes k (settingsAfter s k r) (recordDue s k r) (recordMark r) (some e)
      (hear s.seats[k].adopted.listensTo (listens (routingAfter s k r))) (recordNotices s k r) s
      (s.takeSeat k e r) := by
  unfold State.takeSeat
  rw [hcheck]
  have hadopt := adoptSeat_takes e hcheck
  dsimp only
  split
  · exact hadopt
  · exact hadopt.tail (retryTail_does _ k)

/-! ## Leaving service -/

/-- Settings taken to IDLE. -/
def toIdle (g : Settings) : Settings := { g with routing := { g.routing with mode := .idle } }

theorem leaveService_takes (s : State) (k : SeatNo) :
    Takes k toIdle (idleDue s.seats[k].adopted) (·.markAll .abandoned) none
      (hear s.seats[k].adopted.listensTo fun _ => false)
      (if s.seats[k].adopted.routing.mode.holdsSlot = true then detached k 1 s.seats[k].adopted.supervisors else []) s
      (s.leaveService k) := by
  have hidle := enterIdle_does (s.modAdopted k toIdle) k s.seats[k].adopted
  have hlist : (s.modAdopted k toIdle).seats[k].adopted.supervisors = s.seats[k].adopted.supervisors := by
    rw [modAdopted_eq, modSeat_get, if_pos rfl]
    rfl
  rw [hlist] at hidle
  exact Takes.of_does (d' := id) hidle fun _ => rfl

/-! ## Reads with no bus turns left -/

theorem readReporting_still {io : Io} (h : io.turns = []) (e : Env) (src : Source) (d : Word) (a : Nat) :
    readReporting e src d a io = (some (readMemWord a io.mem), io) := by
  rw [CalmBus.readReporting_calm e src d a (by simp [h, CalmBus.calm]), CalmBus.after_of_nil h]

theorem readRecord_still {io : Io} (h : io.turns = []) (e : Env) (src : Source) (as : List Nat) :
    readRecord e src as io = (some (as.map fun a => readMemWord a io.mem), io) := by
  induction as with
  | nil => rfl
  | cons a as ih =>
    rw [readRecord, readReporting_still h]
    dsimp only
    rw [ih]
    rfl

theorem readEdition_still {io : Io} (h : io.turns = []) (e : Env) (src : Source) (a : Nat) (held : Option Word) :
    readEdition e src a held io =
      (if some (readMemWord a io.mem) = held then none else some (readMemWord a io.mem), io) := by
  rw [readEdition, readReporting_still h]

theorem readWhole_still {io : Io} (h : io.turns = []) (e : Env) (src : Source) (a : Nat) (edition : Word) (as : List Nat) :
    readWhole e src a edition as io =
      (if readMemWord a io.mem = edition then some (as.map fun a => readMemWord a io.mem) else none, io) := by
  rw [readWhole, readRecord_still h]
  dsimp only
  rw [readReporting_still h]
  simp only [Option.some.injEq]

/-! ## Refused and empty records -/

theorem retryTail_eq {q : State} (h : q.seats[k].waiting = s.seats[k].waiting) :
    q.retryTail k = if s.seats[k].waiting = true then q.requestTail k false else q := by
  rw [State.retryTail, h]

theorem takeSeat_refused {r : SeatRecord} {why : Reason} (e : Word) (h : checkRecord s k r = some why) :
    s.takeSeat k e r = (s.refuseSeat k e why).retryTail k := by
  rw [State.takeSeat, h]

theorem takeSeat_empty {r : SeatRecord} (e : Word) (hrouting : r.namesRouting = false) (hecho : r.namesEcho = false)
    (hnoise : r.namesNoise = false) (hlevels : r.namesLevels = false) (hcadence : r.namesCadence = false)
    (hcancel : r.namesCancel = false) : s.takeSeat k e r = (s.takeEdition k e).retryTail k := by
  have hcheck : checkRecord s k r = none := by simp [checkRecord, hrouting, hecho, hcancel]
  have hstore : s.modAdopted k (storeGroups r) = s.modSeat k id :=
    modSeat_congr (by simp [storeGroups, hecho, hnoise, hlevels, hcadence])
  have hadopt : s.adoptSeat k e r = ((s.modSeat k id).takeEdition k e, false) := by
    simp only [State.adoptSeat, hstore, hrouting, hecho, hcadence, hcancel, Bool.false_eq_true, if_false]
  have hedition : (s.modSeat k id).takeEdition k e = s.takeEdition k e := modSeat_modSeat ..
  rw [State.takeSeat, hcheck, hadopt, hedition]
  rfl

/-! ## A seat's place in the scan -/

theorem seatPlace_still (h : s.io.turns = []) (k : SeatNo) (e : Word) : seatPlace s (k, some e) =
    if readMemWord (seatBlockAt s.area.toNat k) s.io.mem = e then
      s.takeSeat k e (parseSeat ((seatWords s.area.toNat k).map fun a => readMemWord a s.io.mem))
    else s.retryTail k := by
  have hset : s.setIo s.io = s := rfl
  simp only [seatPlace, readSeat, readWhole_still h, hset]
  split <;> rfl

/-! ## The tail of an adopted record -/

section
open TailPool Account SeatTail

variable {a : Account}

theorem request_retry (a : Account) : a.request.retry = a.request := by
  by_cases hn : a.echo.tailFloor ≤ min a.echo.tailRequest a.pool.length
  · simp [request, retry, hn]
  · simp [request, retry, hn]

/-- Whether an adoption has asked the Tail Pool (R7, R40). -/
def adoptAsks (a : Account) (now : Bool) (echo : Option Echo) : Bool :=
  let b := (a.store echo).route now
  let asked := (a.store echo).routeAsks now
  if echo.isSome then (if (b.calls && !asked) = true then b.echo.enable && b.blocks.isEmpty else asked) else asked

/-- An adoption that has asked leaves nothing to a retry. -/
theorem adopt_retry_of_asks {now : Bool} {echo : Option Echo} (h : adoptAsks a now echo = true) :
    (a.adopt now echo).retry = a.adopt now echo := by
  have hroute (hasks : (a.store echo).routeAsks now = true) : ∃ c : Account, (a.store echo).route now = c.request := by
    simp only [routeAsks, Bool.and_eq_true] at hasks
    obtain ⟨rfl, hasks⟩ := hasks
    exact ⟨{ a.store echo with calls := true }, by simp [route, hasks]⟩
  have hrequest : ∃ c : Account, a.adopt now echo = c.request := by
    unfold adoptAsks at h
    extract_lets b asked at h
    have hadopt : a.adopt now echo = if echo.isSome then b.resettle a.echo.tailRequest asked else b := rfl
    rw [hadopt]
    cases echo with
    | none => exact hroute h
    | some e =>
      cases hasks : asked
      · rw [hasks] at h
        obtain ⟨hcalls, henable, hblocks⟩ : b.calls = true ∧ b.echo.enable = true ∧ b.blocks.isEmpty = true := by
          revert h
          cases b.calls <;> simp
        exact ⟨b, by simp [resettle, hcalls, henable, hblocks]⟩
      · rw [resettle_of_asked, ite_self]
        exact hroute hasks
  obtain ⟨c, hc⟩ := hrequest
  rw [hc, request_retry]

/-- A seat that comes to a call with its canceller enabled asks for a tail. -/
theorem adopt_of_enters {echo : Option Echo} (hcalls : a.calls = false) (henable : (a.store echo).echo.enable = true) :
    a.adopt true echo = { a.store echo with calls := true }.request ∧ (a.store echo).routeAsks true = true := by
  have hasks : (a.store echo).routeAsks true = true := by
    simp only [routeAsks, henable, show (a.store echo).calls = false from hcalls, Bool.not_false, Bool.and_self]
  have hroute : (a.store echo).route true = { a.store echo with calls := true }.request := by
    simp only [route, henable, show (a.store echo).calls = false from hcalls, Bool.not_false, Bool.and_self, if_true]
  refine ⟨?_, hasks⟩
  simp only [adopt, hasks, resettle_of_asked, ite_self, hroute]

/-- A seat that stays in a call has its tail changed by the ECHO group alone. -/
theorem adopt_of_stays {echo : Option Echo} (hcalls : a.calls = true) :
    a.adopt true echo = (if echo.isSome then (a.store echo).resettle a.echo.tailRequest false else a.store echo) ∧
      (a.store echo).route true = a.store echo ∧ (a.store echo).routeAsks true = false := by
  have hstore : (a.store echo).calls = true := hcalls
  have hroute : (a.store echo).route true = a.store echo := hstore ▸ route_self (a.store echo)
  have hasks : (a.store echo).routeAsks true = false := hstore ▸ routeAsks_self (a.store echo)
  exact ⟨by simp only [adopt, hroute, hasks], hroute, hasks⟩

/-- A seat that runs its canceller without blocks asks for a tail, if it is new to it, the ECHO group is named, or it waits. -/
theorem adopt_retry_of_empty {echo : Option Echo} (hblocks : a.blocks = []) (henable : (a.store echo).echo.enable = true)
    (hasks : a.runs = false ∨ echo.isSome = true ∨ a.waiting = true) :
    (a.adopt true echo).retry = { a.store echo with calls := true }.request := by
  cases hcalls : a.calls
  · rw [(adopt_of_enters hcalls henable).1, request_retry]
  · have hsame : { a.store echo with calls := true } = a.store echo := by rw [store, ← hcalls]
    rw [(adopt_of_stays hcalls).1, hsame]
    cases echo with
    | none =>
      have hruns : a.runs = true := by
        rw [runs, hcalls]
        exact henable
      have hwaits : a.waiting = true := by simpa [hruns] using hasks
      have hwaits : (a.store none).waiting = true := hwaits
      simp only [Option.isSome_none, Bool.false_eq_true, if_false, retry, hwaits, if_true]
    | some e =>
      have hstore : (a.store (some e)).calls = true := hcalls
      have hempty : (a.store (some e)).blocks = [] := hblocks
      have hresettle : (a.store (some e)).resettle a.echo.tailRequest false = (a.store (some e)).request := by
        simp [resettle, hstore, henable, hempty]
      rw [Option.isSome_some, if_pos rfl, hresettle, request_retry]

/-- A seat that holds blocks keeps them, unless an ECHO group shrinks or grows its tail. -/
theorem adopt_retry_of_held {echo : Option Echo} (hlawful : a.lawful) (hblocks : a.blocks ≠ [])
    (henable : (a.store echo).echo.enable = true) :
    (a.adopt true echo).retry = if echo.isSome then (a.store echo).resize a.echo.tailRequest else a.store echo := by
  have hcalls : a.calls = true := (Bool.and_eq_true _ _ ▸ hlawful.1 hblocks : a.calls = true ∧ _).1
  have hwaits : a.waiting = false := hlawful.not_waiting hblocks
  have hstore : (a.store echo).calls = true := hcalls
  have hheld : (a.store echo).blocks ≠ [] := hblocks
  have hresettle : (a.store echo).resettle a.echo.tailRequest false = (a.store echo).resize a.echo.tailRequest := by
    simp [resettle, hstore, henable, hheld]
  have hstill : (if echo.isSome then (a.store echo).resize a.echo.tailRequest else a.store echo).waiting = false := by
    have hsame : (a.store echo).waiting = false := hwaits
    unfold resize grow
    dsimp only
    split_ifs <;> exact hsame
  rw [(adopt_of_stays hcalls).1, hresettle, retry, hstill]
  rfl

end

theorem applyEcho_asked (s : State) (k : SeatNo) (old new : Echo) (clear asked : Bool) :
    (s.applyEcho k old new clear asked).2 = if ((account s k).calls && !asked) = true then
      new.enable && (account s k).blocks.isEmpty else asked := by
  unfold State.applyEcho
  show (if ((account s k).calls && !asked) = true then _ else _ : State × Bool).2 = _
  cases ((account s k).calls && !asked)
  · rfl
  · cases new.enable
    · rfl
    · show (if (account s k).blocks.isEmpty = true then _ else _ : State × Bool).2 = _
      cases (account s k).blocks.isEmpty <;> rfl

/-- The account of a seat whose record is adopted. -/
theorem account_takeSeat {r : SeatRecord} (e : Word) (hcheck : checkRecord s k r = none) :
    account (s.takeSeat k e r) k =
      ((account s k).adopt (routingAfter s k r).mode.holdsSlot (TailPool.echoOf r)).retry := by
  have hadopt := TailPool.account_of_put (TailPool.tailView_adoptSeat e (checkRouting_of_checkRecord hcheck))
  have hasked : (s.adoptSeat k e r).2 =
      adoptAsks (account s k) (routingAfter s k r).mode.holdsSlot (TailPool.echoOf r) := by
    unfold State.adoptSeat
    extract_lets old u x y
    have hasked : TailPool.askedView x = _ :=
      TailPool.askedView_routing (TailPool.tailView_storeGroups s k r) rfl (checkRouting_of_checkRecord hcheck)
    obtain ⟨hview, hasks⟩ := Prod.ext_iff.1 hasked
    have hacc : account x.1 k = accountRouted s k r := TailPool.account_of_put hview
    have hasks : x.2 = routingAsks s k r := hasks
    have hy : y.2 = if r.namesEcho = true then (x.1.applyEcho k old.echo r.echo r.clearTaps x.2).2 else x.2 := by
      unfold y
      split <;> rfl
    show y.2 = _
    rw [hy, applyEcho_asked, hacc, hasks, adoptAsks, TailPool.isSome_echoOf]
    cases hnames : r.namesEcho
    · rfl
    · have hecho : (accountRouted s k r).echo = r.echo := by
        rw [accountRouted, Account.route_echo]
        simp [Account.store, TailPool.echoOf, hnames]
      rw [← hecho]
      rfl
  rw [State.takeSeat, hcheck]
  dsimp only
  split
  · next hasks => rw [hadopt, adopt_retry_of_asks (hasked ▸ hasks)]
  · rw [TailPool.account_of_put (TailPool.tailView_retryTail ..), hadopt]

end Sys2Proof.RecordTaken
end

section
/-! What an adopted record leaves (1.2, 1.4, 10.7): the outcomes of `RecordTaken`, put in terms of the settings before and after. -/

namespace Sys2Proof.RecordFrame

open Sys2Proof.Machine Sys2Proof.Laws Sys2Proof.BusSide Sys2Proof.SlotLaw Sys2Proof.SeatActs Sys2Proof.RecordTaken
open Sys2Proof.TailPool (Account account tailView echoOf)

/-! ## The settings -/

section
variable {s t : State} {k : SeatNo} {r : SeatRecord} {due : Due → Due} {mark : PromptUnit → PromptUnit}
  {edition : Option Word} {f : StreamNo → Stream → Stream} {L : List NoticeOut} {set : Settings → Settings}

/-- The adopted settings of a seat after its record. -/
theorem takes_adopted (h : Takes k set due mark edition f L s t) :
    t.seats[k].adopted = attachedAs (set s.seats[k].adopted) t.seats[k].adopted := by
  have hown := congrArg Seat.adopted h.own
  exact hown

theorem takes_routing (h : Takes k (settingsAfter s k r) due mark edition f L s t) :
    t.seats[k].adopted.routing = routingAfter s k r := by
  have hown := congrArg Settings.routing (takes_adopted h)
  exact hown

theorem takes_echo (h : Takes k (settingsAfter s k r) due mark edition f L s t) :
    t.seats[k].adopted.echo = ((account s k).store (echoOf r)).echo := by
  have hown := congrArg Settings.echo (takes_adopted h)
  exact hown.trans (settingsAfter_echo s k r)

theorem takes_runsEcho (h : Takes k (settingsAfter s k r) due mark edition f L s t) :
    t.seats[k].adopted.runsEcho =
      ((routingAfter s k r).mode.holdsSlot && ((account s k).store (echoOf r)).echo.enable) := by
  rw [Settings.runsEcho, takes_routing h, takes_echo h]

end

/-! ## The notices -/

section
variable {s : State} {k : SeatNo} {r : SeatRecord}

theorem account_lawful (htail : s.tailOk) (k : SeatNo) : (account s k).lawful := (TailPool.tailOk_iff s).1 htail k

/-- The floor of a record that passes the checks is at most its request (R44). -/
theorem floor_le_request (hcheck : checkRecord s k r = none) (hnames : r.namesEcho = true) :
    r.echo.tailFloor ≤ r.echo.tailRequest := by
  have hpass := (RecordChecks.checkRecord_first s k r).passed hcheck .tailRange
  by_contra hlt
  exact hpass (.inl (.inr ⟨hnames, .inl ⟨rfl, by omega⟩⟩))

/-- A seat that holds no slot has no tail. -/
theorem blocks_of_not_calls (htail : s.tailOk) (hcalls : s.seats[k].adopted.routing.mode.holdsSlot = false) :
    s.seats[k].blocks = [] :=
  ((account_lawful htail k).no_tail (by simp only [TailPool.SeatTail.runs, TailPool.account_calls, hcalls, Bool.false_and])).1

/-- The account of a seat with the ECHO settings of its record. -/
def stored (s : State) (k : SeatNo) (r : SeatRecord) : Account := (account s k).store (echoOf r)

theorem stored_echo (hnames : r.namesEcho = true) : (stored s k r).echo = r.echo := by
  simp [stored, Account.store, echoOf, hnames]

theorem stored_echo_of_not (hnames : r.namesEcho = false) : (stored s k r).echo = s.seats[k].adopted.echo := by
  simp only [stored, Account.store, echoOf, hnames, Bool.false_eq_true, if_false, Option.getD_none, TailPool.account_echo]

theorem echoOf_isSome (hnames : r.namesEcho = true) : (echoOf r).isSome = true := by
  rw [TailPool.isSome_echoOf, hnames]

/-- The seat's new settings make it ask: it comes to a call with its canceller enabled. -/
theorem routed_of_enters (hcalls : s.seats[k].adopted.routing.mode.holdsSlot = false)
    (hnow : (routingAfter s k r).mode.holdsSlot = true) (henable : (stored s k r).echo.enable = true) :
    routingAsks s k r = true := by
  rw [routingAsks, hnow]
  exact (adopt_of_enters hcalls henable).2

theorem routed_of_stays (hcalls : s.seats[k].adopted.routing.mode.holdsSlot = true)
    (hnow : (routingAfter s k r).mode.holdsSlot = true) :
    accountRouted s k r = stored s k r ∧ routingAsks s k r = false := by
  rw [accountRouted, routingAsks, hnow]
  exact (adopt_of_stays hcalls).2

theorem routed_of_leaves (hnow : (routingAfter s k r).mode.holdsSlot = false) : (accountRouted s k r).calls = false := by
  rw [accountRouted, hnow]
  exact Account.route_calls ..

/-- The seat asks the Tail Pool aloud: it holds no blocks and is new to its canceller or its ECHO group is named, or its record
raises its request. -/
abbrev asksAloud (s : State) (k : SeatNo) (r : SeatRecord) : Prop :=
  s.seats[k].blocks = [] ∧ (s.seats[k].adopted.runsEcho = false ∨ r.namesEcho = true) ∨
    s.seats[k].blocks ≠ [] ∧ r.namesEcho = true ∧
      s.seats[k].adopted.echo.tailRequest < (stored s k r).echo.tailRequest

/-- What follows the notices of detachments: POOL_SHORT, when the blocks fall short of the floor (R38, R42). -/
def shortNotices (s : State) (k : SeatNo) (r : SeatRecord) : List NoticeOut :=
  (if s.seats[k].adopted.routing.mode.holdsSlot = false ∧ (routingAfter s k r).mode.holdsSlot = true ∧
      (stored s k r).echo.enable = true then shortOf k (stored s k r) (reach (stored s k r)) else []) ++
    if r.namesEcho = true then
      echoNotices k (accountRouted s k r) s.seats[k].adopted.echo r.echo (routingAsks s k r) else []

theorem recordNotices_eq (s : State) (k : SeatNo) (r : SeatRecord) : recordNotices s k r =
    (if s.seats[k].adopted.routing.mode.holdsSlot = true ∧ (routingAfter s k r).mode = .idle then
      detached k 1 s.seats[k].adopted.supervisors else []) ++ shortNotices s k r := List.append_assoc ..

theorem reach_eq_grown (hblocks : s.seats[k].blocks = []) : reach (stored s k r) = grown (stored s k r) := by
  have hstored : (stored s k r).blocks = [] := hblocks
  rw [reach, grown, hstored, List.length_nil, Nat.zero_add]

theorem shortNotices_of_enters (htail : s.tailOk) (hcalls : s.seats[k].adopted.routing.mode.holdsSlot = false)
    (hnow : (routingAfter s k r).mode.holdsSlot = true) (henable : (stored s k r).echo.enable = true) :
    shortNotices s k r = shortOf k (stored s k r) (grown (stored s k r)) := by
  have hasks := routed_of_enters hcalls hnow henable
  rw [shortNotices, if_pos ⟨hcalls, hnow, henable⟩, reach_eq_grown (blocks_of_not_calls htail hcalls), hasks]
  simp [echoNotices]

theorem shortNotices_of_silent (h : ((routingAfter s k r).mode.holdsSlot && (stored s k r).echo.enable) = false) :
    shortNotices s k r = [] := by
  have hcond : ¬ (s.seats[k].adopted.routing.mode.holdsSlot = false ∧ (routingAfter s k r).mode.holdsSlot = true ∧
      (stored s k r).echo.enable = true) := by
    rintro ⟨-, hnow, henable⟩
    simp [hnow, henable] at h
  rw [shortNotices, if_neg hcond, List.nil_append, ite_eq_right_iff]
  intro hnames
  rw [stored_echo hnames, Bool.and_eq_false_iff] at h
  obtain hnow | henable := h
  · simp [echoNotices, routed_of_leaves hnow]
  · simp [echoNotices, henable]

/-- Blocks that reach the request reach its floor. -/
theorem shortOf_grown_of_full {a : Account} (hfloor : a.echo.tailFloor ≤ a.echo.tailRequest)
    (hfull : a.echo.tailRequest ≤ a.blocks.length) : shortOf k a (grown a) = [] := by
  have hgrown : grown a = a.echo.tailRequest := Nat.min_eq_left (hfull.trans (Nat.le_add_right ..))
  rw [shortOf, hgrown, if_neg (Nat.not_lt.2 hfloor)]

theorem shortNotices_of_stays (hcheck : checkRecord s k r = none)
    (hcalls : s.seats[k].adopted.routing.mode.holdsSlot = true) (hnow : (routingAfter s k r).mode.holdsSlot = true)
    (henable : (stored s k r).echo.enable = true) (hnames : r.namesEcho = true) :
    shortNotices s k r = if s.seats[k].blocks = [] ∨
        s.seats[k].adopted.echo.tailRequest < (stored s k r).echo.tailRequest then
      shortOf k (stored s k r) (grown (stored s k r)) else [] := by
  have hcond : ¬ (s.seats[k].adopted.routing.mode.holdsSlot = false ∧ (routingAfter s k r).mode.holdsSlot = true ∧
      (stored s k r).echo.enable = true) := fun h => Bool.false_ne_true (h.1.symm.trans hcalls)
  obtain ⟨hrouted, hasks⟩ := routed_of_stays hcalls hnow
  have hacts : ((stored s k r).calls && !false && r.echo.enable) = true := by
    rw [← stored_echo hnames, henable, show (stored s k r).calls = true from hcalls]
    rfl
  rw [shortNotices, if_neg hcond, List.nil_append, if_pos hnames, hrouted, hasks, echoNotices, if_pos hacts]
  by_cases hblocks : s.seats[k].blocks = []
  · have hempty : (stored s k r).blocks.isEmpty = true := List.isEmpty_iff.2 hblocks
    rw [if_pos hempty, if_pos (.inl hblocks), reach_eq_grown hblocks]
  · have hheld : ¬ (stored s k r).blocks.isEmpty = true := fun h => hblocks (List.isEmpty_iff.1 h)
    rw [if_neg hheld]
    simp only [hblocks, false_or]
    by_cases hroom : (stored s k r).blocks.length < (stored s k r).echo.tailRequest
    · simp only [hroom, and_true]
    · have hfloor : (stored s k r).echo.tailFloor ≤ (stored s k r).echo.tailRequest := by
        rw [stored_echo hnames]
        exact floor_le_request hcheck hnames
      rw [shortOf_grown_of_full hfloor (Nat.not_lt.1 hroom), ite_self, ite_self]

/-- POOL_SHORT is handed when a seat asks aloud for a tail and the blocks fall short. -/
theorem shortNotices_eq (hcheck : checkRecord s k r = none) (htail : s.tailOk) : shortNotices s k r =
    if ((routingAfter s k r).mode.holdsSlot && (stored s k r).echo.enable) = true ∧
        grown (stored s k r) < (stored s k r).echo.tailFloor ∧ asksAloud s k r then
      [⟨.poolShort, .seat k, BitVec.ofNat 32 (stored s k r).echo.tailRequest,
        BitVec.ofNat 32 (stored s k r).echo.tailFloor, BitVec.ofNat 32 s.pool.length⟩] else [] := by
  cases hruns : (routingAfter s k r).mode.holdsSlot && (stored s k r).echo.enable
  · rw [shortNotices_of_silent hruns, if_neg (by simp)]
  obtain ⟨hnow, henable⟩ := Bool.and_eq_true_iff.1 hruns
  simp only [true_and]
  rw [ite_and]
  show shortNotices s k r = if _ then (if asksAloud s k r then _ else _) else _
  cases hcalls : s.seats[k].adopted.routing.mode.holdsSlot
  · have hasks : asksAloud s k r :=
      .inl ⟨blocks_of_not_calls htail hcalls, .inl (by rw [Settings.runsEcho, hcalls]; rfl)⟩
    rw [shortNotices_of_enters htail hcalls hnow henable, if_pos hasks]
    rfl
  · by_cases hnames : r.namesEcho = false
    · have hasks : ¬ asksAloud s k r := by
        have hold : s.seats[k].adopted.runsEcho = true := by
          rw [Settings.runsEcho, hcalls, ← stored_echo_of_not hnames, henable]
          rfl
        rintro (⟨-, hno | hyes⟩ | ⟨-, hyes, -⟩)
        · exact Bool.false_ne_true (hno.symm.trans hold)
        · exact Bool.false_ne_true (hnames.symm.trans hyes)
        · exact Bool.false_ne_true (hnames.symm.trans hyes)
      have hcond : ¬ (s.seats[k].adopted.routing.mode.holdsSlot = false ∧ (routingAfter s k r).mode.holdsSlot = true ∧
          (stored s k r).echo.enable = true) := fun h => Bool.false_ne_true (h.1.symm.trans hcalls)
      rw [if_neg hasks, ite_self, shortNotices, if_neg hcond, if_neg (by simp [hnames])]
      rfl
    · have hnames : r.namesEcho = true := by simpa using hnames
      have hasks : asksAloud s k r ↔ s.seats[k].blocks = [] ∨
          s.seats[k].adopted.echo.tailRequest < (stored s k r).echo.tailRequest := by
        unfold asksAloud
        simp only [hnames, or_true, and_true, true_and]
        tauto
      rw [shortNotices_of_stays hcheck hcalls hnow henable hnames]
      simp only [hasks]
      rw [shortOf, ← ite_and, ← ite_and]
      exact if_congr and_comm rfl rfl

/-! ## What is due -/

theorem due_clearKeyMute (s : State) (k : SeatNo) (r : SeatRecord) (d : Due) :
    (recordDue s k r d).clearKeyMute = true ↔ d.clearKeyMute = true ∨
      s.seats[k].adopted.routing.keyMuteAllowed = true ∧ (routingAfter s k r).keyMuteAllowed = false ∨
      s.seats[k].adopted.routing.mode ≠ .idle ∧ (routingAfter s k r).mode = .idle := by
  have hsame : (recordDue s k r d).clearKeyMute =
      (routedDue s.seats[k].adopted (routingAfter s k r) (storeGroups r s.seats[k].adopted).cadence.reminderEnable
        d).clearKeyMute := by
    unfold recordDue
    dsimp only
    split <;> split <;> rfl
  simp only [hsame, routedDue, Bool.or_eq_true, Bool.and_eq_true, Bool.not_eq_true', decide_eq_true_eq, or_assoc]

theorem due_initSuppressor (s : State) (k : SeatNo) (r : SeatRecord) (d : Due) :
    (recordDue s k r d).initSuppressor = true ↔ d.initSuppressor = true ∨
      s.seats[k].adopted.routing.mode = .idle ∧ (routingAfter s k r).mode ≠ .idle := by
  have hsame : (recordDue s k r d).initSuppressor =
      (routedDue s.seats[k].adopted (routingAfter s k r) (storeGroups r s.seats[k].adopted).cadence.reminderEnable
        d).initSuppressor := by
    unfold recordDue
    dsimp only
    split <;> split <;> rfl
  simp only [hsame, routedDue, Bool.or_eq_true, Bool.and_eq_true, decide_eq_true_eq]

theorem due_newPeriod (s : State) (k : SeatNo) (r : SeatRecord) (d : Due) : (recordDue s k r d).newPeriod =
    if r.namesCadence = true then decide (s.seats[k].adopted.cadence.halfPeriod ≠ r.cadence.halfPeriod)
    else d.newPeriod := by
  unfold recordDue
  dsimp only
  split
  · rfl
  · split <;> rfl

/-- The reminder that a record leaves due: the change of mode decides it, and after it the CADENCE group (R131, R132). -/
theorem due_reminder (s : State) (k : SeatNo) (r : SeatRecord) (d : Due) :
    let old := s.seats[k].adopted
    let new := (storeGroups r old).cadence
    (recordDue s k r d).reminder =
      if (routingAfter s k r).mode = .hold ∧ new.reminderEnable = true ∧ (old.routing.mode ≠ .hold ∨
          r.namesCadence = true ∧ (old.cadence.reminderEnable = false ∨ r.restart = true)) then some true
      else if old.routing.mode = .hold ∧ (routingAfter s k r).mode ≠ .hold ∨
          r.namesCadence = true ∧ old.cadence.reminderEnable = true ∧ new.reminderEnable = false then some false
      else d.reminder := by
  intro old new
  have hrouted : (recordDue s k r d).reminder = if r.namesCadence then
      (cadenceDue (decide ((routingAfter s k r).mode = .hold)) old.cadence r.cadence r.restart
        (routedDue old (routingAfter s k r) new.reminderEnable d)).reminder
      else (routedDue old (routingAfter s k r) new.reminderEnable d).reminder := by
    unfold recordDue
    dsimp only
    split <;> split <;> rfl
  rw [hrouted]
  by_cases hnames : r.namesCadence = true
  · have hnew : new = r.cadence := if_pos hnames
    rw [if_pos hnames, hnew]
    simp only [cadenceDue, routedDue, hnames, true_and]
    by_cases hhold : (routingAfter s k r).mode = .hold
    · simp only [hhold]
      cases old.cadence.reminderEnable <;> cases r.cadence.reminderEnable <;> cases r.restart <;>
        by_cases hwas : old.routing.mode = .hold <;> simp [hwas]
    · simp only [hhold]
      cases old.cadence.reminderEnable <;> cases r.cadence.reminderEnable <;>
        by_cases hwas : old.routing.mode = .hold <;> simp [hwas]
  · rw [if_neg hnames]
    by_cases hwas : old.routing.mode = .hold
    · by_cases hhold : (routingAfter s k r).mode = .hold <;> simp [routedDue, hnames, hwas, hhold]
    · simp [routedDue, hnames, hwas]

theorem due_zeroTaps (htail : s.tailOk) (d : Due) : (recordDue s k r d).zeroTaps = true ↔ d.zeroTaps = true ∨
    r.namesEcho = true ∧ ((routingAfter s k r).mode.holdsSlot && (stored s k r).echo.enable) = true ∧
      s.seats[k].blocks ≠ [] ∧ (r.clearTaps = true ∨ s.seats[k].adopted.echo.bulkDelay ≠ (stored s k r).echo.bulkDelay) := by
  have hrouted : (recordDue s k r d).zeroTaps = if r.namesEcho = true then
      (echoDue (accountRouted s k r) s.seats[k].adopted.echo r.echo r.clearTaps (routingAsks s k r) d).zeroTaps
      else d.zeroTaps := by
    unfold recordDue
    dsimp only
    split <;> split <;> rfl
  rw [hrouted]
  by_cases hnames : r.namesEcho = true
  · simp only [hnames, if_true, true_and, stored_echo hnames, echoDue, Bool.or_eq_true, Bool.and_eq_true,
      Bool.not_eq_true', List.isEmpty_eq_false_iff, decide_eq_true_eq]
    refine or_congr_right ?_
    by_cases hnow : (routingAfter s k r).mode.holdsSlot = true
    · by_cases hcalls : s.seats[k].adopted.routing.mode.holdsSlot = true
      · obtain ⟨hacc, hasks⟩ := routed_of_stays hcalls hnow
        have hstored : (stored s k r).calls = true := hcalls
        have hblocks : (stored s k r).blocks = s.seats[k].blocks := rfl
        simp only [hacc, hasks, hstored, hnow, hblocks, true_and, and_assoc]
      · have hcalls : s.seats[k].adopted.routing.mode.holdsSlot = false := by simpa using hcalls
        have hempty := blocks_of_not_calls htail hcalls
        refine iff_of_false ?_ fun h => h.2.1 hempty
        rintro ⟨⟨⟨⟨-, hasks⟩, henable⟩, -⟩, -⟩
        rw [routed_of_enters hcalls hnow (stored_echo hnames ▸ henable)] at hasks
        exact Bool.false_ne_true hasks.symm
    · have hleaves := routed_of_leaves (s := s) (k := k) (r := r) (by simpa using hnow)
      simp [hleaves, hnow]
  · simp [hnames]

/-! ## The tail -/

section
variable {t : State} {e : Word}

/-- The tail of a seat whose record is adopted. -/
theorem tail_eq (hcheck : checkRecord s k r = none) (e : Word) :
    (s.takeSeat k e r).seats[k].blocks =
        ((account s k).adopt (routingAfter s k r).mode.holdsSlot (echoOf r)).retry.blocks ∧
      (s.takeSeat k e r).seats[k].waiting =
        ((account s k).adopt (routingAfter s k r).mode.holdsSlot (echoOf r)).retry.waiting := by
  rw [← account_takeSeat e hcheck]
  exact ⟨rfl, rfl⟩

theorem request_of_reach {a : Account} (h : a.echo.tailFloor ≤ reach a) :
    a.request.blocks = a.blocks ++ a.pool.take (reach a) ∧ a.request.waiting = false := by
  have hgrant : a.request = { a.grant (reach a) with waiting := false } := if_pos h
  rw [hgrant]
  exact ⟨rfl, rfl⟩

theorem request_of_short {a : Account} (h : reach a < a.echo.tailFloor) :
    a.request.blocks = a.blocks ∧ a.request.waiting = true := by
  have hwait : a.request = { a with waiting := true } := if_neg (Nat.not_le.2 h)
  rw [hwait]
  exact ⟨rfl, rfl⟩

theorem resize_waiting (a : Account) (old : Nat) : (a.resize old).waiting = a.waiting := by
  unfold Account.resize Account.grow
  dsimp only
  split_ifs <;> rfl

theorem resize_blocks (a : Account) (old : Nat) : (a.resize old).blocks =
    if a.echo.tailRequest < a.blocks.length then a.blocks.take a.echo.tailRequest
    else if old < a.echo.tailRequest ∧ a.echo.tailFloor ≤ grown a then
      a.blocks ++ a.pool.take (grown a - a.blocks.length)
    else a.blocks := by
  unfold Account.resize
  by_cases hshrinks : a.echo.tailRequest < a.blocks.length
  · rw [if_pos hshrinks, if_pos hshrinks]
    rfl
  rw [if_neg hshrinks, if_neg hshrinks]
  by_cases hroom : a.blocks.length < a.echo.tailRequest
  · by_cases hraised : old < a.echo.tailRequest
    · simp only [hraised, hroom, true_and, if_true]
      show (if a.echo.tailFloor ≤ grown a then a.grant (grown a - a.blocks.length) else a).blocks = _
      split <;> rfl
    · simp only [hraised, false_and, if_false]
  · have hfull : grown a - a.blocks.length = 0 := by
      unfold grown
      omega
    rw [if_neg (fun h => hroom h.2), hfull, List.take_zero, List.append_nil, ite_self]

/-- The blocks that a seat has after a request or a growth is granted (R36, R38, R42). -/
def grantedBlocks (s : State) (k : SeatNo) (r : SeatRecord) : List Nat :=
  s.seats[k].blocks ++ s.pool.take (grown (stored s k r) - s.seats[k].blocks.length)

theorem tail_of_empty (hcheck : checkRecord s k r = none) (e : Word) (hnow : (routingAfter s k r).mode.holdsSlot = true)
    (henable : (stored s k r).echo.enable = true) (hblocks : s.seats[k].blocks = [])
    (hasks : s.seats[k].adopted.runsEcho = false ∨ r.namesEcho = true ∨ s.seats[k].waiting = true) :
    ((stored s k r).echo.tailFloor ≤ grown (stored s k r) →
      (s.takeSeat k e r).seats[k].blocks = grantedBlocks s k r ∧ (s.takeSeat k e r).seats[k].waiting = false) ∧
    (grown (stored s k r) < (stored s k r).echo.tailFloor →
      (s.takeSeat k e r).seats[k].blocks = [] ∧ (s.takeSeat k e r).seats[k].waiting = true) := by
  obtain ⟨hheld, hwaits⟩ := tail_eq hcheck e
  rw [hnow, adopt_retry_of_empty hblocks henable (TailPool.isSome_echoOf r ▸ hasks)] at hheld hwaits
  rw [hheld, hwaits, grantedBlocks, ← reach_eq_grown hblocks]
  constructor
  · intro hfloor
    rw [hblocks, List.length_nil, Nat.sub_zero, ← hblocks]
    exact request_of_reach (a := { stored s k r with calls := true }) hfloor
  · intro hshort
    rw [← hblocks]
    exact request_of_short (a := { stored s k r with calls := true }) hshort

theorem tail_of_held (hcheck : checkRecord s k r = none) (htail : s.tailOk) (e : Word)
    (hnow : (routingAfter s k r).mode.holdsSlot = true)
    (henable : (stored s k r).echo.enable = true) (hblocks : s.seats[k].blocks ≠ []) :
    (s.takeSeat k e r).seats[k].waiting = false ∧ (s.takeSeat k e r).seats[k].blocks =
      if r.namesEcho = false then s.seats[k].blocks
      else if (stored s k r).echo.tailRequest < s.seats[k].blocks.length then
        s.seats[k].blocks.take (stored s k r).echo.tailRequest
      else if s.seats[k].adopted.echo.tailRequest < (stored s k r).echo.tailRequest ∧
          (stored s k r).echo.tailFloor ≤ grown (stored s k r) then grantedBlocks s k r
      else s.seats[k].blocks := by
  obtain ⟨hheld, hwaits⟩ := tail_eq hcheck e
  rw [hnow, adopt_retry_of_held (account_lawful htail k) hblocks henable, TailPool.isSome_echoOf] at hheld hwaits
  have hwaiting : (stored s k r).waiting = false := (account_lawful htail k).not_waiting hblocks
  rw [hheld, hwaits]
  cases r.namesEcho
  · exact ⟨hwaiting, rfl⟩
  · simp only [if_true, Bool.true_eq_false, if_false]
    exact ⟨(resize_waiting ..).trans hwaiting, resize_blocks ..⟩

end

end

/-! ## The obligation -/

section
variable {s : State} {k : SeatNo} {r : SeatRecord}

theorem refused_eq {why : Reason} (e : Word) (h : checkRecord s k r = some why) :
    s.takeSeat k e r = if s.seats[k].waiting = true then (s.refuseSeat k e why).requestTail k false
      else s.refuseSeat k e why := by
  have hwaiting : (s.refuseSeat k e why).seats[k].waiting = s.seats[k].waiting := by
    simp only [State.refuseSeat, State.takeEdition, hand_seats, modSeat_get, if_true]
  rw [takeSeat_refused e h, retryTail_eq hwaiting]

theorem empty_eq (e : Word) (hrouting : r.namesRouting = false) (hecho : r.namesEcho = false)
    (hnoise : r.namesNoise = false) (hlevels : r.namesLevels = false) (hcadence : r.namesCadence = false)
    (hcancel : r.namesCancel = false) : s.takeSeat k e r =
      if s.seats[k].waiting = true then (s.takeEdition k e).requestTail k false else s.takeEdition k e := by
  have hwaiting : (s.takeEdition k e).seats[k].waiting = s.seats[k].waiting := by
    simp only [State.takeEdition, modSeat_get, if_true]
  rw [takeSeat_empty e hrouting hecho hnoise hlevels hcadence hcancel, retryTail_eq hwaiting]

theorem resizeTail_eq (s : State) (k : SeatNo) (old : Nat) :
    let e := s.seats[k].adopted.echo
    let held := s.seats[k].blocks.length
    let n := min e.tailRequest (held + s.pool.length)
    (e.tailRequest < held → s.resizeTail k old = s.releaseTail k e.tailRequest) ∧
    (held ≤ e.tailRequest → e.tailRequest ≤ old ∨ e.tailRequest = held → s.resizeTail k old = s) ∧
    (old < e.tailRequest → held < e.tailRequest → e.tailFloor ≤ n → s.resizeTail k old = s.grantTail k (n - held)) ∧
    (old < e.tailRequest → held < e.tailRequest → n < e.tailFloor → s.resizeTail k old = s.poolShort k e) := by
  intro e held n
  have hdef : s.resizeTail k old = if e.tailRequest < held then s.releaseTail k e.tailRequest
      else if old < e.tailRequest ∧ held < e.tailRequest then
        (if e.tailFloor ≤ n then s.grantTail k (n - held) else s.poolShort k e) else s := rfl
  rw [hdef]
  refine ⟨fun h => if_pos h, fun hheld h => ?_, fun hold hheld hn => ?_, fun hold hheld hn => ?_⟩
  · rw [if_neg (Nat.not_lt.2 hheld), if_neg (by omega)]
  · rw [if_neg (Nat.lt_asymm hheld), if_pos ⟨hold, hheld⟩, if_pos hn]
  · rw [if_neg (Nat.lt_asymm hheld), if_pos ⟨hold, hheld⟩, if_neg (Nat.not_le.2 hn)]

/-- A record's notices are of the SEAT class. -/
theorem recordNotices_cls (hcheck : checkRecord s k r = none) (htail : s.tailOk) :
    ∀ n ∈ recordNotices s k r, n.code.cls = .seat := by
  intro n hn
  rw [recordNotices_eq, shortNotices_eq hcheck htail, List.mem_append] at hn
  obtain hn | hn := hn
  · split at hn
    · obtain ⟨a, -, rfl⟩ := List.mem_map.1 hn
      rfl
    · cases hn
  · split at hn
    · obtain rfl := List.mem_singleton.1 hn
      rfl
    · cases hn

theorem recordMark_eq (r : SeatRecord) (p : PromptUnit) : recordMark r p =
    if r.namesCancel = true then { p with order := p.order.map fun q =>
      if r.cancelAll = true ∨ q.cell.val = r.cancelCell then { q with mark := some (q.mark.getD .cancelled) } else q }
    else p := by
  unfold recordMark PromptUnit.markWhere Cue.marked
  simp only [Bool.or_eq_true, decide_eq_true_eq]

/-- Settles O53: what is taken of a record is `Takes`, and its parts are put in terms of the settings before and after. -/
theorem refusedRecordFrame : Obligations.RefusedRecordFrame := by
  unfold Obligations.RefusedRecordFrame
  refine ⟨fun s k e r why h => refused_eq e h, fun s k e r => empty_eq e, fun s k e hturns => ?_, resizeTail_eq, ?_⟩
  · intro word waits
    have hwaits : s.retryTail k = waits := retryTail_eq rfl
    have hwords : (seatWords s.area.toNat k).map (fun a => readMemWord a s.io.mem) =
        (List.range 22).map fun i => word (4 + 4 * i) := by
      simp only [seatWords, List.map_map]
      rfl
    refine ⟨hwaits, fun hne => ?_, fun heq => ?_⟩
    · rw [seatPlace_still hturns, ← hwaits]
      exact if_neg hne
    · rw [seatPlace_still hturns, ← hwords]
      exact if_pos heq
  · intro s k e r hcheck htail t x old new d held n granted starts stops
    have htakes : Takes k (settingsAfter s k r) (recordDue s k r) (recordMark r) (some e)
      (hear old.listensTo (listens (routingAfter s k r))) (recordNotices s k r) s t := takeSeat_takes e hcheck
    have hown := htakes.own
    have hnew : new = attachedAs (settingsAfter s k r old) new := takes_adopted htakes
    have hrouting : new.routing = routingAfter s k r := takes_routing htakes
    have hecho : new.echo = (stored s k r).echo := takes_echo htakes
    have hruns : new.runsEcho = ((routingAfter s k r).mode.holdsSlot && (stored s k r).echo.enable) := takes_runsEcho htakes
    have hgroups : new.noise = (storeGroups r old).noise ∧ new.levels = (storeGroups r old).levels ∧
        new.cadence = (storeGroups r old).cadence := by
      rw [hnew]
      exact ⟨rfl, rfl, rfl⟩
    obtain ⟨hnoise, hlevels, hcadence⟩ := hgroups
    have hdue : d = recordDue s k r x.due := congrArg Seat.due hown
    have hio : t.io = handAll s.env (recordNotices s k r) s.io := congrArg State.io htakes.state
    have hprompt : t.seats[k].prompt = recordMark r x.prompt := congrArg Seat.prompt hown
    have hupholds : TailPool.Upholds s t := TailPool.takeSeat_upholds s k e r
    have hn : n = grown (stored s k r) := by
      show min new.echo.tailRequest (held.length + s.pool.length) = _
      rw [hecho]
      rfl
    have hgranted : granted = grantedBlocks s k r := by
      show held ++ s.pool.take (n - held.length) = _
      rw [hn]
      rfl
    refine ⟨?frame, ?seatClass, ?notices, ?own, htakes.others, hrouting, ?echo, hnoise, hlevels, hcadence, ?cancel,
      ?clears, ?inits, ?zeroes, ?reminder, ?period, hupholds.pool, ?noTail, ?asks, ?holds⟩
    case frame =>
      rw [htakes.state]
    case seatClass =>
      rw [hio]
      exact (handAll_waitsOf s.env (recordNotices_cls hcheck htail) s.io).eq.1
    case notices =>
      rw [hio, recordNotices_eq, shortNotices_eq hcheck htail, hrouting, hruns, hecho, hn]
      rfl
    case own =>
      rw [hprompt, hdue, hnew]
      exact hown
    case echo => exact hecho.trans (settingsAfter_echo s k r).symm
    case cancel => exact hprompt.trans (recordMark_eq r x.prompt)
    case clears =>
      rw [hdue, hrouting]
      exact due_clearKeyMute s k r x.due
    case inits =>
      rw [hdue, hrouting]
      exact due_initSuppressor s k r x.due
    case zeroes =>
      rw [hdue, hruns, hecho]
      exact due_zeroTaps htail x.due
    case reminder =>
      have hstarts : starts ↔ (routingAfter s k r).mode = .hold ∧ (storeGroups r old).cadence.reminderEnable = true ∧
          (old.routing.mode ≠ .hold ∨
            r.namesCadence = true ∧ (old.cadence.reminderEnable = false ∨ r.restart = true)) := by
        rw [← hrouting, ← hcadence]
      have hstops : stops ↔ old.routing.mode = .hold ∧ (routingAfter s k r).mode ≠ .hold ∨ r.namesCadence = true ∧
          old.cadence.reminderEnable = true ∧ (storeGroups r old).cadence.reminderEnable = false := by
        rw [← hrouting, ← hcadence]
      rw [hdue, if_congr hstarts rfl (if_congr hstops rfl rfl)]
      exact due_reminder s k r x.due
    case period =>
      rw [hdue, hcadence, due_newPeriod]
      by_cases hnames : r.namesCadence = true
      · have hcad : (storeGroups r old).cadence = r.cadence := if_pos hnames
        rw [if_pos hnames, if_pos hnames, hcad]
      · rw [if_neg hnames, if_neg hnames]
    case noTail => exact fun hno => ((TailPool.tailOk_iff t).1 (hupholds.tail htail) k).no_tail hno
    case asks =>
      rw [hruns, Bool.and_eq_true, hecho, hn, hgranted]
      exact fun hruns hempty => tail_of_empty hcheck e hruns.1 hruns.2 hempty
    case holds =>
      rw [hruns, Bool.and_eq_true, hecho, hn, hgranted]
      exact fun hruns hheld => tail_of_held hcheck htail e hruns.1 hruns.2 hheld

end

end Sys2Proof.RecordFrame
end

section
/-! A law of the seats and the streams that every operation of the part keeps is kept by every step. -/

namespace Sys2Proof.StepLaws

open Sys2Proof.Machine Sys2Proof.Laws Sys2Proof.SeatActs Sys2Proof.RecordTaken

/-- A fold of operations that keep a law. -/
theorem foldl_keeps {P : State → Prop} {s : State} {α : Type} {f : State → α → State} (h : ∀ s a, P s → P (f s a)) (l : List α)
    (hs : P s) : P (l.foldl f s) :=
  List.foldlRecOn l f (motive := P) hs fun t ht a _ => h t a ht

/-- The same of a fold that carries a state beside something else. -/
theorem foldl_snd_keeps {P : State → Prop} {α β : Type} {f : β × State → α → β × State} (h : ∀ x a, P x.2 → P (f x a).2)
    (l : List α) {x : β × State} (hs : P x.2) : P (l.foldl f x).2 :=
  List.foldlRecOn l f (motive := fun y => P y.2) hs fun y hy a _ => h y a hy

/-! ## The scans of seats -/

/-- A law of the seats and the streams that the scans' operations on seats keep. -/
structure ScanLaw (P : State → Prop) : Prop where
  congr : ∀ {s t : State}, P s → t.seats = s.seats → t.streams = s.streams → P t
  retry : ∀ {s : State} (k : SeatNo), P s → P (s.retryTail k)
  record : ∀ {s : State} (k : SeatNo) (e : Word) (ws : List Word), P s → P (s.takeSeat k e (parseSeat ws))
  leave : ∀ {s : State} (k : SeatNo), P s → P (s.leaveService k)
  cells : ∀ {s : State} (k : SeatNo), P s → P (scanSeatCells s k)

namespace ScanLaw

variable {P : State → Prop} {s t : State} (law : ScanLaw P)
include law

theorem setIo (io : Io) (hs : P s) : P (s.setIo io) := law.congr hs rfl rfl

theorem takeHeader (e : Word) (h : HeaderRecord) (hs : P s) : P (s.takeHeader e h) := by
  unfold State.takeHeader
  split
  · exact law.congr (foldl_keeps (fun _ k => law.leave k) _ hs) rfl rfl
  · exact law.congr hs rfl rfl

theorem scanHeader (hs : P s) : P s.scanHeader := by
  unfold State.scanHeader State.readHeader
  extract_lets r
  have hread : P (s.setIo r.2) := law.setIo r.2 hs
  cases r.1 with
  | none => exact hread
  | some e =>
    dsimp only
    generalize readWhole _ _ _ _ _ _ = words
    cases words.1 with
    | none => exact law.setIo _ hread
    | some ws => exact law.takeHeader _ _ (law.setIo _ hread)

theorem retries (hs : P s) : P s.retries := foldl_keeps (fun _ k => law.retry k) _ hs

theorem seatPlace (x : SeatNo × Option Word) (hs : P s) : P (Machine.seatPlace s x) := by
  unfold Machine.seatPlace
  split
  · exact law.retry x.1 hs
  · extract_lets r
    have hread : P (s.setIo r.2) := law.setIo r.2 hs
    cases r.1 with
    | none => exact law.retry x.1 hread
    | some ws => exact law.record x.1 _ ws hread

/-- The readings of the editions leave the seats and the streams. -/
theorem seatEditions (hs : P s) : P (readSeatEditions s).2 :=
  foldl_snd_keeps (f := seatEdition) (x := ([], s)) (fun _ _ h => law.setIo _ h) _ hs

theorem streamEditions (hs : P s) : P (readStreamEditions s).2 :=
  foldl_snd_keeps (f := streamEdition) (x := ([], s)) (fun _ _ h => law.setIo _ h) _ hs

theorem cellScan (hs : P s) : P s.cellScan := foldl_keeps (fun _ k => law.cells k) _ hs

end ScanLaw

/-! ## All operations -/

/-- A law of the seats and the streams that each operation on them keeps. -/
structure SeatStreamLaw (P : State → Prop) : Prop extends ScanLaw P where
  reset : P State.reset
  stream : ∀ {s : State} (j : StreamNo) (e : Word) (enable narrow : Bool), P s →
    P (s.modStream j (adoptStream e enable narrow))
  detach : ∀ {s : State} (k : SeatNo) (cause : Word), P s → P (s.detachAll k cause)
  abandon : ∀ {s : State}, P s → P (s.mapSeats fun x => { x with prompt := x.prompt.markAll .abandoned })
  work : ∀ {s0 s : State} (k : SeatNo), P s0 → P s → P (seatWork s0 k s)
  fetch : ∀ {s : State} (j : StreamNo), P s → P (streamWork j s)
  backs : ∀ {s : State} (j : StreamNo), P s → P (unitBacks s (.stream j))
  stop : ∀ {s : State}, P s → P (s.mapStreams stopStream)
  resume : ∀ {s : State}, P s → P ((s.mapStreams resumeStream).mapSeats resumeSeat)
  opening : ∀ {s : State}, P s → P { s with seats := tabulate fun k => openSeat (s.entering k) s.seats[k] }

namespace SeatStreamLaw

variable {P : State → Prop} {s t : State} (law : SeatStreamLaw P)
include law

/-! ## The scans -/

theorem streamPlace (x : StreamNo × Option Word) (hs : P s) : P (Machine.streamPlace s x) := by
  unfold Machine.streamPlace
  split
  · exact hs
  · extract_lets r
    have hread : P (s.setIo r.2) := law.setIo r.2 hs
    cases r.1 with
    | none => exact hread
    | some ws => exact law.stream x.1 _ _ _ hread

theorem adoptionScan (hs : P s) : P s.adoptionScan := by
  unfold State.adoptionScan
  extract_lets t a b
  have ht : P t := law.scanHeader hs
  have hb : P b.2 := law.streamEditions (law.seatEditions ht)
  split
  · exact law.retries ht
  · exact foldl_keeps (fun _ x => law.streamPlace x) _ (foldl_keeps (fun _ x => law.seatPlace x) _ hb)

theorem scans (hs : P s) : P s.scans := by
  unfold State.scans
  split
  · exact law.retries hs
  · exact law.cellScan (law.adoptionScan hs)

/-! ## The Host Tick Monitor -/

theorem expire (hs : P s) : P s.expire := by
  unfold State.expire
  extract_lets a t
  have ht : P t := law.congr hs rfl rfl
  split
  · exact ht
  · split
    · unfold State.enterStandalone
      exact law.abandon (foldl_keeps (fun _ k => law.detach k 2) _ (law.congr ht rfl rfl))
    · exact law.congr ht rfl rfl

theorem expireAndScan (hs : P s) : P s.expireAndScan := law.scans (law.expire hs)

theorem monitorTick (hs : P s) : P s.monitorTick := by
  unfold State.monitorTick
  extract_lets r t u
  split <;> exact law.congr hs rfl rfl

/-! ## The boundary -/

theorem unitWork {s0 : State} (w : Worker) (h0 : P s0) (hs : P s) : P (Machine.unitWork s0 s w) := by
  cases w with
  | seat k => exact law.work k h0 hs
  | stream j => exact law.fetch j hs

theorem unitBacks (w : Worker) (hs : P s) : P (Machine.unitBacks s w) := by
  cases w with
  | seat k => exact hs
  | stream j => exact law.backs j hs

theorem unitReport (w : Worker) (hs : P s) : P (Machine.unitReport s w) := by
  cases w with
  | seat k => exact hs
  | stream j =>
    unfold Machine.unitReport
    dsimp only
    split
    · exact hs
    · exact law.setIo _ hs

theorem frameWork (order : List Worker) (hs : P s) : P (s.frameWork order) := by
  unfold State.frameWork
  extract_lets ws a b d n
  have ha : P a := foldl_keeps (fun _ w => law.unitWork w hs) _ hs
  have hb : P b := foldl_keeps (fun _ w => law.unitBacks w) _ ha
  have hd : P (ws.foldl Machine.unitReport b) := foldl_keeps (fun _ w => law.unitReport w) _ hb
  exact law.congr hd rfl rfl

theorem actOnRun (hs : P s) : P s.actOnRun := by
  unfold State.actOnRun
  split
  · split
    · exact hs
    · exact law.congr (law.stop hs) rfl rfl
  · split
    · exact law.congr (law.resume hs) rfl rfl
    · exact hs

theorem openWork (hs : P s) : P s.openWork := by
  unfold State.openWork
  extract_lets t
  have ht : P t := law.monitorTick (law.congr (law.opening hs) rfl rfl)
  split
  · exact ht
  · exact law.scans ht

theorem boundary (order : List Worker) (hs : P s) : P (s.boundary order) := by
  unfold State.boundary
  extract_lets a b c
  have ha : P a := by
    unfold a State.settleExpiry
    split
    · exact law.expireAndScan hs
    · exact hs
  have hb : P b := by
    unfold b
    split
    · exact law.frameWork order ha
    · exact ha
  have hc : P c := law.actOnRun (law.congr hb rfl rfl)
  split
  · exact law.openWork hc
  · exact hc

/-! ## Every step -/

theorem softReset (s : State) : P s.softReset := law.congr law.reset rfl rfl

theorem exec (i : Instr) (hs : P s) (h : Machine.exec i s = .next t) : P t := by
  cases i with
  | pinReset => cases h; exact law.congr law.reset rfl rfl
  | softReset => cases h; exact law.softReset s
  | run w =>
    cases h
    split
    · exact law.softReset s
    · exact law.congr hs rfl rfl
  | enableMask w =>
    cases h
    split
    · exact law.softReset s
    · exact law.congr hs rfl rfl
  | windowFaultClear w =>
    cases h
    split
    · exact law.congr hs rfl rfl
    · exact hs
  | registerWrite r w => cases r <;> cases h <;> exact law.congr hs rfl rfl
  | seatHighwayCycle up =>
    cases h
    split
    · exact law.congr hs rfl rfl
    · exact hs
  | debounceComplete slot bit => cases h; exact law.congr hs rfl rfl
  | receiveStoreArrival slots => cases h; exact law.congr hs rfl rfl
  | transmitStoreRead => cases h; exact law.congr hs rfl rfl
  | cycleStart bits => cases h; exact law.congr hs rfl rfl
  | syncTest sync => cases h; exact law.congr hs rfl rfl
  | frameBoundary turns order =>
    cases h
    have hload : P (s.loadTurns turns) := law.congr hs rfl rfl
    split
    · exact law.congr (law.boundary order hload) rfl rfl
    · exact hs
  | hostTickExpiry turns =>
    cases h
    have hload : P (s.loadTurns turns) := law.congr hs rfl rfl
    split
    · exact law.congr (law.expireAndScan hload) rfl rfl
    · exact hs

theorem step (hs : P s) (h : Machine.step s = .next t) : P t := by
  unfold Machine.step at h
  split at h
  · cases h
    exact hs
  · next i rest _ => exact law.exec (s := { s with pending := rest }) i (law.congr hs rfl rfl) h

end SeatStreamLaw

/-! ## Laws of each seat alone -/

/-- A law of one seat that each operation on a seat keeps, in states that keep another law `B`. -/
structure SeatLaw (B : State → Prop) (Q : Seat → Prop) : Prop where
  reset : Q .reset
  /-- A change of edition, attachments, what is due, and the tail. -/
  settled : ∀ {x : Seat} (y : Seat), Q x → Q { seatAttachedAs x y with
    edition := y.edition, due := y.due, blocks := y.blocks, waiting := y.waiting }
  routed : ∀ {x : Seat} (r : Routing), Q x → Q { x with adopted := { x.adopted with routing := r } }
  stored : ∀ {x : Seat} (ws : List Word),
    ((parseSeat ws).namesEcho = true → checkEcho (parseSeat ws).echo = none) → Q x →
    Q { x with adopted := storeGroups (parseSeat ws) x.adopted }
  marked : ∀ {x : Seat} (r : Result) (test : CellNo → Bool), Q x → Q { x with prompt := x.prompt.markWhere r test }
  cells : ∀ {x : Seat} (e : Env) (k : SeatNo) (io : Io), Q x → Q { x with prompt := (scanCells e k x.prompt io).1 }
  work : ∀ {s0 : State} {x : Seat} (e : Env) (k : SeatNo) (io : Io), B s0 → (∀ j : SeatNo, Q s0.seats[j]) → Q x →
    Q (frameWorkSeat e k (fun j => s0.seats[j].kept) (seatInputs s0 k) x io).1
  idle : ∀ {x : Seat} (e : Env) (k : SeatNo) (io : Io), Q x → Q (idleSeat e k x io).1
  resume : ∀ {x : Seat}, Q x → Q (resumeSeat x)
  opening : ∀ {x : Seat} (new : Bool), Q x → Q (openSeat new x)

namespace SeatLaw

variable {B : State → Prop} {Q : Seat → Prop} {s t : State} {k : SeatNo}

theorem seats_modSeat {f : Seat → Seat} (hf : Q s.seats[k] → Q (f s.seats[k])) (hs : ∀ j : SeatNo, Q s.seats[j]) :
    ∀ j : SeatNo, Q (s.modSeat k f).seats[j] := fun j => by
  rw [modSeat_get]
  split
  · exact hf (hs k)
  · exact hs j

variable (law : SeatLaw B Q)
include law

theorem attached {x y : Seat} (hx : Q x) (hy : y = seatAttachedAs x y) : Q y := by
  have hsame := law.settled y hx
  rw [hy]
  have hrest := congrArg (fun z => (z.edition, z.due, z.blocks, z.waiting)) hy
  simp only [seatAttachedAs, Prod.mk.injEq] at hrest
  obtain ⟨he, hd, hb, hw⟩ := hrest
  rw [he, hd, hb, hw] at hsame
  exact hsame

theorem does {d : Due → Due} {f : StreamNo → Stream → Stream} {L : List NoticeOut} (h : Does k d f L s t)
    (hs : ∀ j : SeatNo, Q s.seats[j]) : ∀ j : SeatNo, Q t.seats[j] := fun j => by
  by_cases hj : j = k
  · subst hj
    have hedition := congrArg Seat.edition h.own
    have hdue := congrArg Seat.due h.own
    have hsame := law.settled t.seats[j] (hs j)
    rw [hedition, hdue] at hsame
    rw [h.own]
    exact hsame
  · exact law.attached (hs j) (h.others j hj)

theorem takes {set : Settings → Settings} {d : Due → Due} {mark : PromptUnit → PromptUnit} {edition : Option Word}
    {f : StreamNo → Stream → Stream} {L : List NoticeOut} (h : Takes k set d mark edition f L s t)
    (hset : Q { s.seats[k] with adopted := set s.seats[k].adopted, prompt := mark s.seats[k].prompt })
    (hs : ∀ j : SeatNo, Q s.seats[j]) : ∀ j : SeatNo, Q t.seats[j] := fun j => by
  by_cases hj : j = k
  · subst hj
    have hedition := congrArg Seat.edition h.own
    have hdue := congrArg Seat.due h.own
    have hsame := law.settled t.seats[j] hset
    rw [hedition, hdue] at hsame
    rw [h.own]
    exact hsame
  · exact law.attached (hs j) (h.others j hj)

theorem recordMarked {x : Seat} (r : SeatRecord) (hx : Q x) : Q { x with prompt := recordMark r x.prompt } := by
  unfold recordMark
  split
  · exact law.marked .cancelled _ hx
  · exact hx

theorem record (k : SeatNo) (e : Word) (ws : List Word) (hs : ∀ j : SeatNo, Q s.seats[j]) :
    ∀ j : SeatNo, Q (s.takeSeat k e (parseSeat ws)).seats[j] := by
  cases hcheck : checkRecord s k (parseSeat ws) with
  | some why =>
    rw [takeSeat_refused e hcheck]
    have hq : ∀ j : SeatNo, Q (s.refuseSeat k e why).seats[j] :=
      seats_modSeat (f := fun x => { x with edition := some e })
        (fun hk => law.settled { s.seats[k] with edition := some e } hk) hs
    exact law.does (retryTail_does _ k) hq
  | none =>
    refine law.takes (takeSeat_takes e hcheck) ?_ hs
    have hecho : (parseSeat ws).namesEcho = true → checkEcho (parseSeat ws).echo = none := fun hnames => by
      simpa [hnames] using (Option.or_eq_none_iff.1 (Option.or_eq_none_iff.1 hcheck).1).2
    exact law.recordMarked (parseSeat ws) (law.routed _ (law.stored ws hecho (hs k)))

theorem leave (k : SeatNo) (hs : ∀ j : SeatNo, Q s.seats[j]) : ∀ j : SeatNo, Q (s.leaveService k).seats[j] := by
  have hidle := law.routed { s.seats[k].adopted.routing with mode := .idle } (hs k)
  exact law.takes (leaveService_takes s k) (law.marked .abandoned (fun _ => true) hidle) hs

theorem seatWork {s0 : State} (k : SeatNo) (hB : B s0) (h0 : ∀ j : SeatNo, Q s0.seats[j]) (hs : ∀ j : SeatNo, Q s.seats[j]) :
    ∀ j : SeatNo, Q (Machine.seatWork s0 k s).seats[j] := by
  unfold Machine.seatWork
  extract_lets r
  have hr : Q r.1 := by
    unfold r
    split
    · exact law.work _ k _ hB h0 (hs k)
    · exact law.idle _ k _ (hs k)
  exact seats_modSeat (f := fun _ => r.1) (fun _ => hr) hs

/-- A law of each seat is a law of the seats and the streams. -/
theorem seatStreamLaw (base : SeatStreamLaw B) : SeatStreamLaw fun s => B s ∧ ∀ k : SeatNo, Q s.seats[k] where
  congr hs hseats hstreams := ⟨base.congr hs.1 hseats hstreams, hseats ▸ hs.2⟩
  reset := by
    refine ⟨base.reset, fun k => ?_⟩
    have hseat : State.reset.seats[k] = Seat.reset := by simp [State.reset]
    rw [hseat]
    exact law.reset
  retry k hs := ⟨base.retry k hs.1, law.does (retryTail_does _ k) hs.2⟩
  record k e ws hs := ⟨base.record k e ws hs.1, law.record k e ws hs.2⟩
  leave k hs := ⟨base.leave k hs.1, law.leave k hs.2⟩
  stream j e b n hs := ⟨base.stream j e b n hs.1, hs.2⟩
  cells {s} k hs := ⟨base.cells k hs.1,
    seats_modSeat (f := fun x => { x with prompt := (scanCells s.env k s.seats[k].prompt s.io).1 })
      (fun hk => law.cells s.env k s.io hk) hs.2⟩
  detach k cause hs := ⟨base.detach k cause hs.1, fun j => law.attached (hs.2 j) ((detachAll_reattaches _ k cause).seats j)⟩
  abandon hs := by
    refine ⟨base.abandon hs.1, fun k => ?_⟩
    rw [mapSeats_seats, tabulate_get]
    exact law.marked .abandoned _ (hs.2 k)
  work k h0 hs := ⟨base.work k h0.1 hs.1, law.seatWork k h0.1 h0.2 hs.2⟩
  fetch j hs := ⟨base.fetch j hs.1, hs.2⟩
  backs j hs := ⟨base.backs j hs.1, hs.2⟩
  stop hs := ⟨base.stop hs.1, hs.2⟩
  resume hs := by
    refine ⟨base.resume hs.1, fun k => ?_⟩
    rw [mapSeats_seats, tabulate_get]
    exact law.resume (hs.2 k)
  opening hs := by
    refine ⟨base.opening hs.1, fun k => ?_⟩
    rw [tabulate_get]
    exact law.opening _ (hs.2 k)

end SeatLaw

theorem SeatStreamLaw.trivial : SeatStreamLaw fun _ => True where
  congr _ _ _ := True.intro
  reset := True.intro
  retry _ _ := True.intro
  record _ _ _ _ := True.intro
  leave _ _ := True.intro
  stream _ _ _ _ _ := True.intro
  cells _ _ := True.intro
  detach _ _ _ := True.intro
  abandon _ := True.intro
  work _ _ _ := True.intro
  fetch _ _ := True.intro
  backs _ _ := True.intro
  stop _ := True.intro
  resume _ := True.intro
  opening _ := True.intro

/-- A law of each seat alone is kept by every step. -/
theorem SeatLaw.step {Q : Seat → Prop} {s t : State} (law : SeatLaw (fun _ => True) Q) (hs : ∀ k : SeatNo, Q s.seats[k])
    (h : Machine.step s = .next t) : ∀ k : SeatNo, Q t.seats[k] :=
  ((law.seatStreamLaw .trivial).step ⟨True.intro, hs⟩ h).2

/-! ## Laws of each stream alone -/

/-- A law of one stream that each operation on a stream keeps. -/
structure StreamLaw (R : Stream → Prop) : Prop where
  reset : R .reset
  join : ∀ {st : Stream}, R st → R (joinStream st)
  leave : ∀ {st : Stream}, R st → R (leaveStream st)
  adopt : ∀ {st : Stream} (e : Word) (enable narrow : Bool), R st → R (adoptStream e enable narrow st)
  fetch : ∀ {st : Stream} (e : Env) (j : StreamNo) (io : Io), R st → R (fetchStream e j st io).1
  backs : ∀ {st : Stream} (e : Env) (j : StreamNo) (io : Io), R st → R (writeBacks e j st io).1
  stop : ∀ {st : Stream}, R st → R (stopStream st)
  resume : ∀ {st : Stream}, R st → R (resumeStream st)

namespace StreamLaw

variable {R : Stream → Prop} {s : State}

theorem streams_modStream {j : StreamNo} {f : Stream → Stream} (hf : R s.streams[j] → R (f s.streams[j]))
    (hs : ∀ i : StreamNo, R s.streams[i]) : ∀ i : StreamNo, R (s.modStream j f).streams[i] := fun i => by
  rw [modStream_get]
  split
  · exact hf (hs j)
  · exact hs i

variable (law : StreamLaw R)
include law

theorem hear (was is : StreamNo → Bool) (j : StreamNo) {st : Stream} (h : R st) : R (SeatActs.hear was is j st) := by
  unfold SeatActs.hear
  split
  · exact h
  · split
    · exact law.join h
    · exact law.leave h

theorem record (k : SeatNo) (e : Word) (r : SeatRecord) (hs : ∀ j : StreamNo, R s.streams[j]) :
    ∀ j : StreamNo, R (s.takeSeat k e r).streams[j] := fun j => by
  cases hcheck : checkRecord s k r with
  | some why =>
    rw [takeSeat_refused e hcheck, (retryTail_does (s.refuseSeat k e why) k).streams j]
    exact hs j
  | none =>
    rw [(takeSeat_takes e hcheck).streams j]
    exact law.hear _ _ j (hs j)

/-- A law of each stream is a law of the seats and the streams. -/
theorem seatStreamLaw : SeatStreamLaw fun s => ∀ j : StreamNo, R s.streams[j] where
  congr hs _ hstreams := hstreams ▸ hs
  reset j := by
    have hstream : State.reset.streams[j] = Stream.reset := by simp [State.reset]
    rw [hstream]
    exact law.reset
  retry {s} k hs j := by
    rw [(retryTail_does s k).streams j]
    exact hs j
  record k e ws hs := law.record k e _ hs
  leave {s} k hs j := by
    rw [(leaveService_takes s k).streams j]
    exact law.hear _ _ j (hs j)
  stream j e b n hs := streams_modStream (f := adoptStream e b n) (law.adopt e b n) hs
  cells _ hs := hs
  detach {s} k cause hs := by
    rw [(detachAll_reattaches s k cause).state]
    exact hs
  abandon hs := hs
  work _ _ hs := hs
  fetch {s} j hs :=
    streams_modStream (f := fun _ => (fetchStream s.env j s.streams[j] s.io).1) (law.fetch s.env j s.io) hs
  backs {s} j hs :=
    streams_modStream (f := fun _ => (writeBacks s.env j s.streams[j] s.io).1) (law.backs s.env j s.io) hs
  stop hs j := by
    rw [mapStreams_streams, tabulate_get]
    exact law.stop (hs j)
  resume hs j := by
    rw [mapSeats_streams, mapStreams_streams, tabulate_get]
    exact law.resume (hs j)
  opening hs := hs

end StreamLaw

end Sys2Proof.StepLaws
end

section
/-! The laws of each seat alone: its settings and gains lie in their ranges (O30), and its play order is lawful (O33). -/

namespace Sys2Proof.SeatLaws

open Sys2Proof.Machine Sys2Proof.Laws Sys2Proof.StepLaws Sys2Proof.Levelling

/-! ## Settings in their ranges -/

theorem clamp_bounds {lo hi : Nat} (h : lo ≤ hi) (n : Nat) : lo ≤ clamp lo hi n ∧ clamp lo hi n ≤ hi := by
  unfold clamp
  omega

theorem clamp_le (hi n : Nat) : clamp 0 hi n ≤ hi := (clamp_bounds (Nat.zero_le hi) n).2

theorem parseEcho_inRange {w10 w14 w18 w1C w20 : Word} (hcheck : checkEcho (parseEcho w10 w14 w18 w1C w20) = none) :
    (parseEcho w10 w14 w18 w1C w20).inRange := by
  have hpass := (RecordChecks.checkEcho_first (parseEcho w10 w14 w18 w1C w20)).passed hcheck
  generalize hx : parseEcho w10 w14 w18 w1C w20 = x at hpass ⊢
  have htail : ¬ (x.tailRequest < 1 ∨ 16 < x.tailRequest ∨ x.tailFloor < 1 ∨ 16 < x.tailFloor ∨
      x.tailRequest < x.tailFloor) := fun h => hpass .tailRange (.inl ⟨rfl, h⟩)
  have hdelay : ¬ 1023 < x.bulkDelay := fun h => hpass .delayRange (.inr ⟨rfl, h⟩)
  refine ⟨by omega, by omega, ?_⟩
  rw [← hx]
  exact ⟨clamp_bounds (by decide) _, clamp_bounds (by decide) _, clamp_le .., clamp_le .., clamp_le ..⟩

theorem parseNoise_inRange (w24 w28 w2C w30 w34 w38 : Word) : (parseNoise w24 w28 w2C w30 w34 w38).inRange := by
  refine ⟨fun i => ?_, clamp_bounds (by decide) _, clamp_bounds (by decide) _, clamp_bounds (by decide) _, clamp_le ..⟩
  simp only [parseNoise, tabulate_get]
  have hall : ∀ n ∈ parseGains w2C ++ parseGains w30 ++ parseGains w34 ++ parseGains w38, n ≤ 16384 := by
    simp [parseGains, clamp_le]
  rw [List.getD_eq_getElem?_getD]
  cases hget : (parseGains w2C ++ parseGains w30 ++ parseGains w34 ++ parseGains w38)[i.val]? with
  | none => exact Nat.zero_le _
  | some n => exact hall n (List.mem_of_getElem? hget)

theorem parseLevels_inRange (w3C w40 w44 w48 : Word) : (parseLevels w3C w40 w44 w48).inRange :=
  ⟨clamp_le .., clamp_le .., clamp_le .., clamp_le .., clamp_le .., clamp_le .., clamp_le .., clamp_le ..⟩

theorem parseCadence_inRange (w4C w50 w54 : Word) : (parseCadence w4C w50 w54).inRange :=
  ⟨clamp_bounds (by decide) _, clamp_le .., clamp_bounds (by decide) _, clamp_le ..⟩

/-- A record whose ECHO group passes its check leaves settings in their ranges. -/
theorem storeGroups_inRange {ws : List Word} {g : Settings}
    (hecho : (parseSeat ws).namesEcho = true → checkEcho (parseSeat ws).echo = none) (hg : g.inRange) :
    (storeGroups (parseSeat ws) g).inRange := by
  obtain ⟨he, hn, hl, hc⟩ := hg
  refine ⟨?_, ?_, ?_, ?_⟩
  · unfold storeGroups
    dsimp only
    split
    · next hnames => exact parseEcho_inRange (hecho hnames)
    · exact he
  · unfold storeGroups
    dsimp only
    split
    · exact parseNoise_inRange ..
    · exact hn
  · unfold storeGroups
    dsimp only
    split
    · exact parseLevels_inRange ..
    · exact hl
  · unfold storeGroups
    dsimp only
    split
    · exact parseCadence_inRange ..
    · exact hc

theorem reset_inRange : Settings.reset.inRange := by
  refine ⟨?_, ⟨fun i => ?_, ?_⟩, ?_, ?_⟩
  · simp [Settings.reset, Echo.inRange, Echo.reset]
  · simp [Settings.reset, Noise.reset]
  · simp [Settings.reset, Noise.reset]
  · simp [Settings.reset, Levels.inRange, Levels.reset]
  · simp [Settings.reset, Cadence.inRange, Cadence.reset]

theorem suppressFrame_gain_le {n : Noise} {present : Bool} {x : Suppressor} {xs : List Sample}
    (htable : ∀ j : Fin 8, n.gainTable[j] ≤ 16384) (hgain : x.gain ≤ 16384) :
    (suppressFrame n present x xs).1.gain ≤ 16384 := by
  unfold suppressFrame
  split
  · exact presentFrame_gain_le htable hgain
  · exact hgain

theorem duckTarget_le {active : Bool} {g : Nat} (h : g ≤ 16384) : duckTarget active g ≤ 16384 := by
  unfold duckTarget
  split
  · exact h
  · exact le_rfl

theorem settingsOk_law : SeatLaw (fun _ => True) Seat.settingsOk where
  reset := ⟨reset_inRange, reset_inRange, le_rfl, le_rfl⟩
  settled _ h := h
  routed _ h := h
  stored ws hecho h := ⟨storeGroups_inRange hecho h.1, h.2⟩
  marked _ _ h := h
  cells _ _ _ h := h
  work e k io _ _ h := by
    obtain ⟨hadopted, hgoverning, hgain, hduck⟩ := h
    obtain ⟨-, ⟨htable, -⟩, ⟨-, -, -, -, -, -, -, hduckGain⟩, -⟩ := id hgoverning
    exact ⟨hadopted, hgoverning, suppressFrame_gain_le htable hgain, duckTarget_le hduckGain⟩
  idle _ _ _ h := h
  resume h := h
  opening new h := by
    obtain ⟨hadopted, hgoverning, hgain, hduck⟩ := h
    unfold openSeat
    split
    · exact ⟨hadopted, hadopted, le_rfl, le_rfl⟩
    · exact ⟨hadopted, hadopted, hgain, hduck⟩

/-- Settles O30: adopted settings are parsed, clamped and checked; governing settings are adopted ones. -/
theorem settingsKeptInRange : Obligations.SettingsKeptInRange := by
  unfold Obligations.SettingsKeptInRange
  exact fun s t hs h => settingsOk_law.step hs h

/-! ## What the work of a frame does to a prompt unit -/

/-- Preparing and playing leave the play order, the owed writes and the stale cells, and a whole buffer whole. -/
structure Readies (p q : PromptUnit) : Prop where
  order : q.order = p.order
  owed : q.owed = p.owed
  stale : q.stale = p.stale
  buffer : p.buffer.length = 80 → q.buffer.length = 80

variable {p q r : PromptUnit}

theorem Readies.refl (p : PromptUnit) : Readies p p := ⟨rfl, rfl, rfl, id⟩

theorem Readies.trans (h : Readies p q) (g : Readies q r) : Readies p r :=
  ⟨g.order.trans h.order, g.owed.trans h.owed, g.stale.trans h.stale, g.buffer ∘ h.buffer⟩

theorem fetchClip_readies (e : Env) (k : SeatNo) (c : CellNo) (x : Clip) (p : PromptUnit) (io : Io) :
    Readies p (fetchClip e k c x p io).unit := by
  unfold fetchClip
  extract_lets n r
  cases r.failed with
  | some a => exact .refl p
  | none => exact ⟨rfl, rfl, rfl, fun _ => EchoCanceller.takePad_length ..⟩

theorem takeClip_readies (e : Env) (k : SeatNo) (c : CellNo) (address length format : Word) (p : PromptUnit) (io : Io) :
    Readies p (takeClip e k c address length format p io).unit := by
  unfold takeClip
  split
  · exact .refl p
  · extract_lets x
    have hclip : Readies p { p with clip := some x, stage := .ready } := ⟨rfl, rfl, rfl, id⟩
    exact hclip.trans (fetchClip_readies ..)

theorem readClipEntry_readies (e : Env) (k : SeatNo) (c : CellNo) (n : Nat) (p : PromptUnit) (io : Io) :
    Readies p (readClipEntry e k c n p io).unit := by
  unfold readClipEntry
  dsimp only
  split
  · exact .refl p
  · split
    · exact .refl p
    · split
      · exact .refl p
      · exact takeClip_readies ..

theorem prepareCell_readies (e : Env) (k : SeatNo) (c : CellNo) (p : PromptUnit) (io : Io) :
    Readies p (prepareCell e k c p io).unit := by
  unfold prepareCell
  dsimp only
  split
  · exact ⟨rfl, rfl, rfl, id⟩
  · split
    · exact ⟨rfl, rfl, rfl, id⟩
    · split
      · exact ⟨rfl, rfl, rfl, id⟩
      · next tag _ _ =>
        have htag : Readies p { p with tag := tag, clip := none } := ⟨rfl, rfl, rfl, id⟩
        exact htag.trans (readClipEntry_readies ..)

theorem prepareAgain_readies (e : Env) (k : SeatNo) (c : CellNo) (p : PromptUnit) (io : Io) :
    Readies p (prepareAgain e k c p io).unit := by
  unfold prepareAgain
  split
  · exact prepareCell_readies ..
  · have hready : Readies p { p with stage := .ready } := ⟨rfl, rfl, rfl, id⟩
    exact hready.trans (fetchClip_readies ..)

theorem playCell_readies (e : Env) (k : SeatNo) (c : CellNo) (p : PromptUnit) (io : Io) :
    Readies p (playCell e k c p io).unit ∧
      ((playCell e k c p io).showing = none ∨ (playCell e k c p io).showing = some .playing) := by
  unfold playCell
  extract_lets u
  have hu : Readies p u := ⟨rfl, rfl, rfl, id⟩
  split
  · exact ⟨hu, .inl rfl⟩
  · split
    · exact ⟨hu, .inr rfl⟩
    · extract_lets s
      have hs : Readies p s.unit := hu.trans (fetchClip_readies ..)
      split
      · exact ⟨hs, .inl rfl⟩
      · exact ⟨hs, .inr rfl⟩

/-- The Prompt Unit's work leaves the order, and its first cell shows PLAYING or PAUSED if it shows anything. -/
theorem promptFrame_readies (e : Env) (k : SeatNo) (plays : Bool) (p : PromptUnit) (io : Io) :
    Readies p (promptFrame e k plays p io).unit ∧
      ∀ s, (promptFrame e k plays p io).showing = some s → s = .playing ∨ s = .paused := by
  unfold promptFrame
  split
  · exact ⟨.refl p, nofun⟩
  · split
    · split
      · obtain ⟨hreadies, hshows⟩ := playCell_readies e k _ p io
        refine ⟨hreadies, fun s hs => ?_⟩
        obtain hnone | hplaying := hshows
        · cases hnone.symm.trans hs
        · cases hplaying.symm.trans hs
          exact .inl rfl
      · refine ⟨⟨rfl, rfl, rfl, id⟩, fun s hs => ?_⟩
        cases hs
        exact .inr rfl
    · split
      · exact ⟨.refl p, nofun⟩
      · split
        · exact ⟨prepareAgain_readies .., nofun⟩
        · exact ⟨prepareCell_readies .., nofun⟩

/-! ## Play orders -/

/-- The law of R114, of the order alone. -/
def orderLaw (l : List Cue) : Prop :=
  (l.map Cue.cell).Nodup ∧ (∀ q ∈ l.tail, q.expected = .posted) ∧
    ∀ q ∈ l, q.expected = .posted ∨ q.expected = .playing ∨ q.expected = .paused

variable {l m : List Cue}

theorem orderLaw.sublist (h : orderLaw l) (hm : m.Sublist l) : orderLaw m := by
  obtain ⟨hnodup, htail, hall⟩ := h
  exact ⟨(hm.map _).nodup hnodup, fun q hq => htail q (hm.tail.subset hq), fun q hq => hall q (hm.subset hq)⟩

/-- A change that leaves cells and expected states. -/
theorem orderLaw.map (h : orderLaw l) {f : Cue → Cue} (hcell : ∀ q, (f q).cell = q.cell)
    (hexpected : ∀ q, (f q).expected = q.expected) : orderLaw (l.map f) := by
  obtain ⟨hnodup, htail, hall⟩ := h
  have hcells : (l.map f).map Cue.cell = l.map Cue.cell := by
    rw [List.map_map]
    exact List.map_congr_left fun q _ => hcell q
  refine ⟨hcells ▸ hnodup, ?_, ?_⟩
  · rw [← List.map_tail, List.forall_mem_map]
    exact fun q hq => (hexpected q).trans (htail q hq)
  · rw [List.forall_mem_map]
    exact fun q hq => by rw [hexpected q]; exact hall q hq

/-- A POSTED cell that is not in the order joins it at its end. -/
theorem orderLaw.append (h : orderLaw l) {c : CellNo} {mark : Option Result} (hc : ∀ q ∈ l, q.cell ≠ c) :
    orderLaw (l ++ [⟨c, .posted, mark⟩]) := by
  obtain ⟨hnodup, htail, hall⟩ := h
  refine ⟨?_, fun q hq => ?_, fun q hq => ?_⟩
  · rw [List.map_append, List.nodup_append]
    refine ⟨hnodup, List.nodup_singleton c, fun a ha b hb hab => ?_⟩
    obtain ⟨q, hq, rfl⟩ := List.mem_map.1 ha
    exact hc q hq (hab.trans (List.mem_singleton.1 hb))
  · cases l with
    | nil => cases hq
    | cons x l =>
      obtain hq | hq := List.mem_append.1 hq
      · exact htail q hq
      · rw [List.mem_singleton.1 hq]
  · obtain hq | hq := List.mem_append.1 hq
    · exact hall q hq
    · rw [List.mem_singleton.1 hq]
      exact .inl rfl

/-- The first cell's expected state becomes PLAYING or PAUSED (R115). -/
theorem orderLaw.show (h : orderLaw l) {c : CellNo} {s : CellState} (hfirst : l.head?.map Cue.cell = some c)
    (hs : s = .playing ∨ s = .paused) :
    orderLaw (l.map fun q => if q.cell = c then { q with expected := s } else q) := by
  cases l with
  | nil => cases hfirst
  | cons x l =>
    obtain ⟨hnodup, htail, hall⟩ := h
    obtain rfl : x.cell = c := Option.some.inj hfirst
    obtain ⟨hx, hl⟩ := List.nodup_cons.1 hnodup
    have hrest : (l.map fun q => if q.cell = x.cell then { q with expected := s } else q) = l := by
      refine (List.map_congr_left fun q hq => if_neg fun heq => ?_).trans (List.map_id l)
      exact hx (heq ▸ List.mem_map_of_mem hq)
    rw [List.map_cons, hrest, if_pos rfl]
    refine ⟨hnodup, htail, List.forall_mem_cons.2 ⟨.inr hs, fun q hq => hall q (List.mem_cons_of_mem _ hq)⟩⟩

/-- At most four cells, since no cell stands twice. -/
theorem orderLaw.length_le (h : orderLaw l) : l.length ≤ 4 := by
  have hcard := h.1.length_le_card
  rw [List.length_map] at hcard
  exact hcard

/-! ## The cell scan -/

theorem scanState_orderLaw (c : CellNo) (w : CellState) (h : orderLaw p.order) : orderLaw (scanState c w p).order := by
  unfold scanState
  split
  · split
    · exact h
    · exact h.map (fun q => by split <;> rfl) (fun q => by split <;> rfl)
  · next hnone =>
    have hc : ∀ q ∈ p.order, q.cell ≠ c := by simpa using hnone
    cases w with
    | posted => exact h.append hc
    | empty => exact h
    | playing => exact h
    | paused => exact h
    | done => exact h

theorem scanState_buffer (c : CellNo) (w : CellState) (p : PromptUnit) : (scanState c w p).buffer = p.buffer := by
  unfold scanState
  split
  · split <;> rfl
  · cases w <;> rfl

/-- What each read cell keeps, the scan of a seat's cells keeps. -/
theorem scanCells_keeps {P : PromptUnit → Prop} (h : ∀ c w p, P p → P (scanState c w p)) (e : Env) (k : SeatNo) (io : Io)
    (hp : P p) : P (scanCells e k p io).1 := by
  refine List.foldlRecOn cells (scanCell e k) (b := (p, io)) (motive := fun x => P x.1) hp fun x hx c _ => ?_
  unfold scanCell
  split
  · exact hx
  · extract_lets r
    cases r.1 with
    | none => exact hx
    | some w => exact h c (decodeCell w) x.1 hx

/-! ## The cell writes -/

/-- Retries leave everything of the unit but the owed writes. -/
theorem retryCells_unit (e : Env) (k : SeatNo) (p : PromptUnit) (io : Io) :
    ∃ owed, (retryCells e k p io).1 = { p with owed := owed } := by
  refine List.foldlRecOn p.owedInOrder (retryCell e k) (b := ({ p with owed := [] }, io))
    (motive := fun x => ∃ owed, x.1 = { p with owed := owed }) ⟨[], rfl⟩ fun x hx o _ => ?_
  obtain ⟨owed, hx⟩ := hx
  unfold retryCell
  dsimp only
  split
  · exact ⟨owed, hx⟩
  · exact ⟨owed ++ [o], by rw [hx]⟩

/-- A write of a live state is of the first cell, which shows that state. -/
theorem writeOf_live {f : PromptFrame} {c : CellNo} {w : CellWrite} {s : CellState} (h : writeOf f c = some w)
    (hs : w.outcome = .live s) : f.unit.order.head?.map Cue.cell = some w.cell ∧ f.showing = some s := by
  unfold writeOf at h
  split at h
  · cases h
    cases hs
  · split at h
    · cases h
    · extract_lets first samples at h
      split at h
      · cases h
        cases hs
      · cases h
        cases hs
      · next hfirst _ hshowing =>
        cases h
        cases hs
        exact ⟨of_decide_eq_true hfirst, hshowing⟩
      · cases h

/-- A cell write changes the owed writes, and a live state's the expected state of its cell. -/
theorem makeWrite_unit (e : Env) (k : SeatNo) (x : PromptUnit × Io) (w : CellWrite) :
    (∃ owed, (makeWrite e k x w).1 = { x.1 with owed := owed }) ∨
      ∃ s, w.outcome = .live s ∧ (makeWrite e k x w).1 =
        { x.1 with order := x.1.order.map fun q => if q.cell = w.cell then { q with expected := s } else q } := by
  unfold makeWrite
  dsimp only
  cases hw : w.outcome with
  | finished r =>
    left
    dsimp only
    split
    · exact ⟨x.1.owed, rfl⟩
    · exact ⟨_, rfl⟩
  | live s =>
    dsimp only
    split
    · exact .inr ⟨s, rfl, rfl⟩
    · exact .inl ⟨x.1.owed, rfl⟩

/-- Removing finished cells leaves a part of the order, and the buffer or silence. -/
theorem removeCells_unit (gone : List CellNo) (p : PromptUnit) :
    (removeCells gone p).order.Sublist p.order ∧
      ((removeCells gone p).buffer = p.buffer ∨ (removeCells gone p).buffer = silence) := by
  unfold removeCells
  dsimp only
  split
  · exact ⟨List.filter_sublist, .inl rfl⟩
  · exact ⟨List.filter_sublist, .inr rfl⟩

/-- What the writes of a frame's end keep: a lawful order of the same cells. -/
def keptByWrites (p q : PromptUnit) : Prop :=
  orderLaw q.order ∧ q.order.map Cue.cell = p.order.map Cue.cell

theorem makeWrite_keptByWrites {f : PromptFrame} (e : Env) (k : SeatNo)
    (hshows : ∀ s, f.showing = some s → s = .playing ∨ s = .paused) {x : PromptUnit × Io} {w : CellWrite}
    (hw : ∃ c, writeOf f c = some w) (hx : keptByWrites f.unit x.1) : keptByWrites f.unit (makeWrite e k x w).1 := by
  obtain ⟨c, hw⟩ := hw
  obtain ⟨hlaw, hcells⟩ := hx
  obtain ⟨owed, hunit⟩ | ⟨s, hs, hunit⟩ := makeWrite_unit e k x w
  · rw [hunit]
    exact ⟨hlaw, hcells⟩
  · obtain ⟨hfirst, hshowing⟩ := writeOf_live hw hs
    have hhead : x.1.order.head?.map Cue.cell = some w.cell := by
      rw [← List.head?_map, hcells, List.head?_map, hfirst]
    rw [hunit]
    refine ⟨hlaw.show hhead (hshows s hshowing), ?_⟩
    rw [← hcells, List.map_map]
    refine List.map_congr_left fun q _ => ?_
    rw [Function.comp_apply]
    split <;> rfl

theorem makeWrite_buffer (e : Env) (k : SeatNo) (x : PromptUnit × Io) (w : CellWrite) :
    (makeWrite e k x w).1.buffer = x.1.buffer := by
  obtain ⟨owed, hunit⟩ | ⟨s, _, hunit⟩ := makeWrite_unit e k x w <;> rw [hunit]

/-- The writes and removals at a frame's end keep the law of the order. -/
theorem endCells_orderLaw (e : Env) (k : SeatNo) {f : PromptFrame} (h : orderLaw f.unit.order)
    (hshows : ∀ s, f.showing = some s → s = .playing ∨ s = .paused) : orderLaw (endCells e k f).1.order := by
  unfold endCells
  extract_lets ws r x
  have hr : keptByWrites f.unit r.1 := by
    obtain ⟨owed, hunit⟩ := retryCells_unit e k f.unit f.io
    rw [hunit]
    exact ⟨h, rfl⟩
  have hx : keptByWrites f.unit x.1 :=
    List.foldlRecOn ws (makeWrite e k) (motive := fun y => keptByWrites f.unit y.1) hr fun y hy w hw => by
      obtain ⟨c, _, hc⟩ := List.mem_filterMap.1 hw
      exact makeWrite_keptByWrites e k hshows ⟨c, hc⟩ hy
  exact hx.1.sublist (removeCells_unit _ x.1).1

/-- They keep a whole buffer whole. -/
theorem endCells_buffer (e : Env) (k : SeatNo) {f : PromptFrame} (h : f.unit.buffer.length = 80) :
    (endCells e k f).1.buffer.length = 80 := by
  unfold endCells
  extract_lets ws r x
  have hr : r.1.buffer = f.unit.buffer := by
    obtain ⟨owed, hunit⟩ := retryCells_unit e k f.unit f.io
    rw [hunit]
  have hx : x.1.buffer = f.unit.buffer :=
    List.foldlRecOn ws (makeWrite e k) (motive := fun y => y.1.buffer = f.unit.buffer) hr fun y hy w _ =>
      (makeWrite_buffer e k y w).trans hy
  obtain hsame | hsilence := (removeCells_unit ((ws.filter CellWrite.finishes).map CellWrite.cell) x.1).2
  · rw [hsame, hx, h]
  · rw [hsilence, SeatBuses.silence_length]

/-! ## The law of play orders at every step -/

theorem ordersOk_law : SeatLaw (fun _ => True) fun x => orderLaw x.prompt.order where
  reset := ⟨List.nodup_nil, nofun, nofun⟩
  settled _ h := h
  routed _ h := h
  stored _ _ h := h
  marked r test h := orderLaw.map h (fun q => by split <;> rfl) (fun q => by split <;> rfl)
  cells e k io h := scanCells_keeps (P := fun p => orderLaw p.order) (fun c w _ => scanState_orderLaw c w) e k io h
  work {_ x} e k io _ _ h := by
    unfold frameWorkSeat
    extract_lets a p c unit y
    obtain ⟨hreadies, hshows⟩ := promptFrame_readies e k a.plays x.prompt (handAll e a.notices io)
    have hp : orderLaw p.unit.order := by
      rw [hreadies.order]
      exact h
    exact endCells_orderLaw e k hp hshows
  idle {x} e k io h := by
    obtain ⟨owed, hunit⟩ := retryCells_unit e k x.prompt io
    unfold idleSeat
    dsimp only
    rw [hunit]
    exact h
  resume h := h
  opening new h := by
    unfold openSeat
    split <;> exact h

/-- Settles O33: only the first cell shows a state, and the cells of an order are different ones of the four. -/
theorem playOrdersKept : Obligations.PlayOrdersKept := by
  unfold Obligations.PlayOrdersKept
  exact ⟨fun s t hs h => ordersOk_law.step hs h, fun p hp => orderLaw.length_le hp⟩

end Sys2Proof.SeatLaws
end

section
/-! The laws of the streams and of the frames of samples that every step keeps. -/

namespace Sys2Proof.StreamLaws

open Sys2Proof.Machine Sys2Proof.Laws Sys2Proof.SeatActs Sys2Proof.RecordTaken Sys2Proof.StepLaws Sys2Proof.SeatLaws
  Sys2Proof.SeatBuses

/-! ## What a fetch leaves of a stream -/

/-- The fields of a stream that no read and no sample of a fetch changes. -/
def stillOf (st : Stream) : Option Word × Bool × Bool × Nat × Option Word × Option Word × List Sample × Bool :=
  (st.edition, st.enable, st.narrow, st.listeners, st.owedA, st.owedB, st.buffer, st.playing)

/-- A part of a fetch that consumes `n` source samples. -/
structure Moves (n : Nat) (f g : Fetch) : Prop where
  still : stillOf g.stream = stillOf f.stream
  out : g.out.length = f.out.length + n

variable {f g h : Fetch} {m n : Nat}

theorem Moves.refl (f : Fetch) : Moves 0 f f := ⟨rfl, rfl⟩

theorem Moves.trans (hf : Moves m f g) (hg : Moves n g h) : Moves (m + n) f h :=
  ⟨hg.still.trans hf.still, by rw [hg.out, hf.out, Nat.add_assoc]⟩

/-- A change of the position, the state, the bad-seen marks and the bus side alone. -/
theorem Moves.to (hf : Moves n f g) (hs : stillOf h.stream = stillOf g.stream) (ho : h.out = g.out) : Moves n f h :=
  ⟨hs.trans hf.still, (congrArg List.length ho).trans hf.out⟩

theorem failure_moves (e : Env) (j : StreamNo) (s : Segment) (a : Nat) (f : Fetch) : Moves 0 f (f.failure e j s a) := by
  unfold Fetch.failure
  split <;> exact ⟨rfl, rfl⟩

theorem setBad_still (st : Stream) (s : Segment) (x : Bool) : stillOf (st.setBad s x) = stillOf st := by
  cases s <;> rfl

theorem judgeSegment_moves (e : Env) (j : StreamNo) (s : Segment) (count address : Word) (f : Fetch) :
    Moves 0 f (judgeSegment e j s count address f).2 := by
  unfold judgeSegment
  split
  · dsimp only
    split
    · exact .refl f
    · exact ⟨setBad_still .., rfl⟩
  · exact ⟨setBad_still .., rfl⟩

theorem readSegment_moves (e : Env) (j : StreamNo) (s : Segment) (f : Fetch) : Moves 0 f (readSegment e j s f).2 := by
  unfold readSegment
  split
  · exact .refl f
  · extract_lets count address g
    have hg : Moves 0 f g := ⟨rfl, rfl⟩
    cases count.1 with
    | none => exact hg.trans (failure_moves ..)
    | some c =>
      cases address.1 with
      | none => exact hg.trans (failure_moves ..)
      | some a => exact hg.trans (judgeSegment_moves ..)

theorem readSample_moves (e : Env) (j : StreamNo) (s : Segment) (a : Nat) (f : Fetch) :
    Moves 1 f (readSample e j s a f) := by
  unfold readSample
  extract_lets r h
  cases r.1 with
  | some w => exact ⟨rfl, rfl⟩
  | none =>
    obtain ⟨hstill, -⟩ := failure_moves e j s a h
    exact ⟨hstill, rfl⟩

theorem endOneShot_moves (e : Env) (j : StreamNo) (s : Segment) (f : Fetch) : Moves 0 f (endOneShot e j s f) := by
  unfold endOneShot
  extract_lets v g r
  have hg : Moves 0 f g := ⟨rfl, rfl⟩
  have hr : Moves 0 f r.2 := hg.trans (readSegment_moves ..)
  cases r.1 with
  | playable p => exact hr.to rfl rfl
  | unplayable x => exact hr.to rfl rfl

theorem endPass_moves (e : Env) (j : StreamNo) (s : Segment) (start : Word) (length : Nat) (f : Fetch) :
    Moves 0 f (endPass e j s start length f) := by
  unfold endPass
  extract_lets r
  have hr : Moves 0 f r.2 := readSegment_moves ..
  cases r.1 with
  | playable p => exact hr.to rfl rfl
  | unplayable x => exact hr.to rfl rfl

theorem consume_moves (e : Env) (j : StreamNo) (f : Fetch) : Moves 1 f (consume e j f) := by
  unfold consume
  split
  · exact ⟨rfl, rfl⟩
  · extract_lets a _ b c
    have ha : Moves 1 f a := readSample_moves ..
    have hc : Moves 1 f c := ha.to rfl rfl
    split
    · exact hc.trans (endOneShot_moves ..)
    · exact hc
  · extract_lets a
    have ha : Moves 1 f a := readSample_moves ..
    split
    · exact ha.trans (endPass_moves ..)
    · exact ha.to rfl rfl

theorem consumeMany_moves (e : Env) (j : StreamNo) (n : Nat) (f : Fetch) : Moves n f (consumeMany e j n f) := by
  induction n generalizing f with
  | zero => exact .refl f
  | succ n ih =>
    obtain ⟨hstill, hout⟩ := (consume_moves e j f).trans (ih (consume e j f))
    exact ⟨hstill, by rw [consumeMany, hout, Nat.add_comm 1 n]⟩

theorem startFetch_moves (e : Env) (j : StreamNo) (f : Fetch) : Moves 0 f (startFetch e j f) := by
  unfold startFetch
  extract_lets a b
  have hb : Moves 0 f b.2 := (readSegment_moves e j .a f).trans (readSegment_moves ..)
  split
  · exact hb.to rfl rfl
  · exact hb.to rfl rfl
  · split
    · exact hb
    · exact hb.to rfl rfl

theorem fetchStarved_moves (e : Env) (j : StreamNo) (f : Fetch) : Moves 0 f (fetchStarved e j f) := by
  unfold fetchStarved
  extract_lets a b
  have hb : Moves 0 f b.2 := (readSegment_moves e j .a f).trans (readSegment_moves ..)
  split <;> exact hb.to rfl rfl

theorem spread_length (narrow : Bool) {xs : List Sample} (h : xs.length = frameSource narrow) :
    (spread narrow xs).length = 80 := by
  unfold spread
  cases narrow with
  | false => exact h
  | true =>
    have hlen : xs.length = 40 := h
    simp [List.length_flatMap, hlen]

/-- What a whole fetch leaves: the adopted settings, the listeners and the owed writes, and a whole buffer. -/
structure Fetched (x y : Stream) : Prop where
  edition : y.edition = x.edition
  enable : y.enable = x.enable
  narrow : y.narrow = x.narrow
  listeners : y.listeners = x.listeners
  owedA : y.owedA = x.owedA
  owedB : y.owedB = x.owedB
  buffer : y.buffer.length = 80

theorem Moves.fetched {x : Stream} (hf : Moves n f g)
    (hx : stillOf f.stream = stillOf { x with buffer := silence, playing := false, backs := [] }) : Fetched x g.stream := by
  have hstill := hf.still.trans hx
  simp only [stillOf, Prod.mk.injEq] at hstill
  obtain ⟨hedition, henable, hnarrow, hlisteners, hA, hB, hbuffer, -⟩ := hstill
  exact ⟨hedition, henable, hnarrow, hlisteners, hA, hB, by rw [hbuffer, silence_length]⟩

theorem fetchRunning_fetched (e : Env) (j : StreamNo) {x : Stream} {f : Fetch} (hout : f.out = [])
    (hf : f.stream = { x with buffer := silence, playing := false, backs := [] }) :
    Fetched x (fetchRunning e j f).stream := by
  unfold fetchRunning
  extract_lets g narrow h buffer
  have hg : Moves 0 f g := by
    unfold g
    split
    · exact startFetch_moves ..
    · exact .refl f
  have hstart := congrArg stillOf hf
  split
  · exact hg.fetched hstart
  · have hh : Moves (frameSource narrow) f h := Nat.zero_add (frameSource narrow) ▸ hg.trans (consumeMany_moves ..)
    obtain ⟨hedition, henable, hnarrow, hlisteners, hA, hB, -⟩ := hh.fetched hstart
    refine ⟨hedition, henable, hnarrow, hlisteners, hA, hB, ?_⟩
    show buffer.length = 80
    unfold buffer
    split
    · exact silence_length
    · exact spread_length _ (by rw [List.length_reverse, hh.out, hout, List.length_nil, Nat.zero_add])

theorem fetchStream_fetched (e : Env) (j : StreamNo) (x : Stream) (io : Io) : Fetched x (fetchStream e j x io).1 := by
  unfold fetchStream
  extract_lets f g
  have hnone : Fetched x f.stream := (Moves.refl f).fetched rfl
  show Fetched x g.stream
  unfold g
  cases x.state with
  | disabled => exact hnone
  | waiting => exact hnone
  | running => exact fetchRunning_fetched e j rfl rfl
  | starved => exact (fetchStarved_moves e j f).fetched rfl

/-- The write-backs change the owed writes and drop the ones noted. -/
theorem writeBacks_stream (e : Env) (j : StreamNo) (x : Stream) (io : Io) :
    ∃ a b, (writeBacks e j x io).1 = { x with owedA := a, owedB := b, backs := [] } := by
  have hset : ∀ (y : Stream) (s : Segment) (o : Option Word), (∃ a b, y = { x with owedA := a, owedB := b }) →
      ∃ a b, y.setOwed s o = { x with owedA := a, owedB := b } := by
    rintro y s o ⟨a, b, rfl⟩
    cases s with
    | a => exact ⟨o, b, rfl⟩
    | b => exact ⟨a, o, rfl⟩
  unfold writeBacks
  extract_lets p q
  have hp : ∃ a b, p.1 = { x with owedA := a, owedB := b } :=
    List.foldlRecOn [Segment.a, Segment.b] (retryOwed e j) (b := (x, io))
      (motive := fun y => ∃ a b, y.1 = { x with owedA := a, owedB := b }) ⟨x.owedA, x.owedB, rfl⟩ fun y hy s _ => by
        unfold retryOwed
        split
        · exact hy
        · dsimp only
          split
          · exact hset y.1 s none hy
          · exact hy
  have hq : ∃ a b, q.1 = { x with owedA := a, owedB := b } :=
    List.foldlRecOn x.backs (writeBackOne e j) (b := p)
      (motive := fun y => ∃ a b, y.1 = { x with owedA := a, owedB := b }) hp fun y hy w _ => by
        unfold writeBackOne
        dsimp only
        split
        · exact hset y.1 w.segment _ hy
        · exact hy
  obtain ⟨a, b, hq⟩ := hq
  exact ⟨a, b, congrArg (fun y : Stream => { y with backs := [] }) hq⟩

/-! ## Frames of samples -/

theorem buffersOk_law : StreamLaw fun st => st.buffer.length = 80 where
  reset := silence_length
  join h := h
  leave h := h
  adopt {st} e enable narrow h := by
    unfold adoptStream
    dsimp only
    split
    · exact h
    · split <;> exact h
  fetch {st} e j io _ := (fetchStream_fetched e j st io).buffer
  backs {st} e j io h := by
    obtain ⟨a, b, hbacks⟩ := writeBacks_stream e j st io
    rw [hbacks]
    exact h
  stop h := h
  resume _ := silence_length

section
variable {k : SeatNo} {kept : SeatNo → Kept} {i : SeatInputs} {x : Seat}

theorem mixer_line_length (hmic : i.mic.length = 80)
    (hkept : ∀ a ∈ x.governing.supervisors, (kept a.seat).sent.length = 80)
    (hstream : ∀ b, i.stream = some b → b.length = 80) : (seatAudio k kept i x).seat.mixer.line.length = 80 := by
  cases hmode : x.governing.routing.mode with
  | idle =>
    rw [mixer_line_quiet k kept i x (.inl hmode)]
    exact silence_length
  | supervise =>
    rw [mixer_line_quiet k kept i x (.inr hmode)]
    exact silence_length
  | talk => exact (mixer_line_talk k kept i x hmode hmic hkept).1
  | hold =>
    rw [mixer_line_hold k kept i x hmode, List.length_map]
    refine busSums_length fun t ht => ?_
    split at ht
    · rw [List.mem_singleton.1 ht]
      exact (term_length ..).trans toneOf_length
    · cases hb : i.stream with
      | none => simp [hb] at ht
      | some b =>
        simp only [hb, Option.map_some, Option.toList_some, List.mem_singleton] at ht
        rw [ht]
        exact (term_length ..).trans (hstream b hb)

end

theorem framesOk_law : SeatLaw (fun s => ∀ j : StreamNo, s.streams[j].buffer.length = 80) Seat.framesOk where
  reset := ⟨silence_length, silence_length, silence_length, silence_length, silence_length⟩
  settled _ h := h
  routed _ h := h
  stored _ _ h := h
  marked _ _ h := h
  cells {x} e k io h := by
    obtain ⟨hcust, hsent, hear, hline, hbuffer⟩ := h
    exact ⟨hcust, hsent, hear, hline, scanCells_keeps (P := fun p => p.buffer.length = 80)
      (fun c w p hp => (congrArg List.length (scanState_buffer c w p)).trans hp) e k io hbuffer⟩
  work {s0 x} e k io hstreams hseats h := by
    have hmic : (seatInputs s0 k).mic.length = 80 := slotSamples_length ..
    have hy : (seatInputs s0 k).y.length = 80 := slotNumbered_length ..
    have hkept : ∀ a ∈ x.governing.supervisors, s0.seats[a.seat].kept.sent.length = 80 := fun a _ => (hseats a.seat).2.1
    have htarget : ∀ t : SeatNo, x.governing.attachedTo = some t →
        s0.seats[t].kept.cust.length = 80 ∧ s0.seats[t].kept.sent.length = 80 :=
      fun t _ => ⟨(hseats t).1, (hseats t).2.1⟩
    have hstream : ∀ b, (seatInputs s0 k).stream = some b → b.length = 80 := fun b hb => by
      obtain ⟨j, -, -, rfl⟩ := (streamPlaying_eq_some _ _ b).1 hb
      exact hstreams j
    obtain ⟨-, -, -, -, hbuffer⟩ := h
    unfold frameWorkSeat
    extract_lets a p c unit y
    have hp : p.unit.buffer.length = 80 :=
      (promptFrame_readies e k a.plays x.prompt (handAll e a.notices io)).1.buffer hbuffer
    exact ⟨kept_cust_length (k := k) (kept := fun j => s0.seats[j].kept) hy,
      kept_sent_length (k := k) (kept := fun j => s0.seats[j].kept) hmic,
      mixer_ear_length (k := k) hmic hy hkept hbuffer htarget, mixer_line_length (k := k) hmic hkept hstream,
      endCells_buffer e k hp⟩
  idle {x} e k io h := by
    obtain ⟨-, -, -, -, hbuffer⟩ := h
    obtain ⟨owed, hunit⟩ := retryCells_unit e k x.prompt io
    refine ⟨silence_length, silence_length, silence_length, silence_length, ?_⟩
    unfold idleSeat
    dsimp only
    rw [hunit]
    exact hbuffer
  resume _ := ⟨silence_length, silence_length, silence_length, silence_length, silence_length⟩
  opening {x} new h := by
    obtain ⟨hcust, hsent, hear, hline, hbuffer⟩ := h
    unfold openSeat
    split
    · exact ⟨silence_length, silence_length, silence_length, silence_length, hbuffer⟩
    · exact ⟨hcust, hsent, hear, hline, hbuffer⟩

theorem framesOk_step {s t : State} (hs : s.framesOk) (h : step s = .next t) : t.framesOk := by
  obtain ⟨hseats, hstreams⟩ := hs
  obtain ⟨hstreams', hseats'⟩ :=
    (framesOk_law.seatStreamLaw buffersOk_law.seatStreamLaw).step ⟨hstreams, hseats⟩ h
  exact ⟨hseats', hstreams'⟩

end Sys2Proof.StreamLaws
end

section
/-! The laws of the registers, the timeline and the two highway ports that every step keeps. -/

namespace Sys2Proof.LineLaws

open Sys2Proof.Machine Sys2Proof.Laws Sys2Proof.StepLaws Sys2Proof.StreamLaws Sys2Proof.Registers Sys2Proof.Highways

variable {s t : State}

/-- The address registers, the sampled area, the timeline and the two ports, but for what a header adoption changes. -/
def linesOf (s : State) : Word × Word × Word × Word × Nat × NetPort × SeatPort :=
  (s.regs.stationBase, s.regs.windowBase, s.regs.windowLimit, s.area, s.cycle, netCore s.nh, seatCore s.sh)

theorem keeps_linesOf {lo hi : Nat} (h : Keeps lo hi s t) : linesOf t = linesOf s := by
  simp only [linesOf, h.regs, h.area, h.cycle, h.netCore, h.seatCore]

/-- A law of the registers, the timeline and the ports that each operation on them keeps. -/
structure LineLaw (P : State → Prop) : Prop where
  congr : ∀ {s t : State}, P s → linesOf t = linesOf s → P t
  pin : ∀ {s : State}, P s → P s.pinReset
  soft : ∀ {s : State}, P s → P s.softReset
  write : ∀ {s t : State} (r : HostReg) (w : Word), P s → Machine.execRegisterWrite r w s = .next t → P t
  debounce : ∀ {s : State} (k : SeatNo) (bit : StatusBit), P s → P { s with sh := completeDebounce k bit s.sh }
  arrive : ∀ {s : State} (slots : Vector Word 33), P s → P (s.setNet (arrive s.running slots s.nh))
  transmit : ∀ {s : State}, P s → P (s.setNet (readTx s.running s.nh))
  start : ∀ {s : State} (bits : Nat), P s → P (s.setNet (seeCycleStart s.running bits s.nh))
  sync : ∀ {s : State} (bits : List Bool), P s → P (s.setNet (testSync bits s.nh))
  cycle : ∀ {s : State} (up : Vector Word 32), s.cycle < 80 → P s → P (s.seatCycle up)
  next : ∀ {s : State}, P s → P s.nextFrame
  stop : ∀ {s : State}, P s → P s.stopWork
  resume : ∀ {s : State}, P s → P s.resumeWork
  promote : ∀ {s : State}, P s → P s.promote

namespace LineLaw

variable {P : State → Prop} (law : LineLaw P)
include law

theorem keeps (h : Keeps 0 0 s t) (hs : P s) : P t := law.congr hs (keeps_linesOf h)

theorem expire (hs : P s) : P s.expire := by
  unfold State.expire
  extract_lets a t
  have ht : P t := law.congr hs rfl
  split
  · exact ht
  · split
    · unfold State.enterStandalone
      extract_lets _ b c d
      have hb : P b := law.congr ht rfl
      have hc : P c := law.keeps (hand_keeps ..) hb
      have hd : P d := law.keeps (keeps_foldl (fun x k => detachAll_keeps x k 2) _ c) hc
      exact law.congr hd (keeps_linesOf (mapSeats_keeps ..))
    · exact law.keeps (hand_keeps ..) ht

theorem expireAndScan (hs : P s) : P s.expireAndScan := law.keeps (scans_keeps s.expire) (law.expire hs)

theorem monitorTick (hs : P s) : P s.monitorTick := by
  unfold State.monitorTick
  extract_lets r t _ u
  have hu : P u := law.congr hs rfl
  split
  · exact law.keeps (hand_keeps ..) hu
  · exact hu

theorem openWork (hs : P s) : P s.openWork := by
  unfold State.openWork
  extract_lets t
  have ht : P t := law.monitorTick (law.promote hs)
  split
  · exact ht
  · exact law.keeps (scans_keeps t) ht

theorem actOnRun (hs : P s) : P s.actOnRun := by
  unfold State.actOnRun
  split
  · split
    · exact hs
    · exact law.stop hs
  · split
    · exact law.resume hs
    · exact hs

theorem boundary (order : List Worker) (hs : P s) : P (s.boundary order) := by
  unfold State.boundary
  extract_lets a b c
  have ha : P a := by
    unfold a State.settleExpiry
    split
    · exact law.expireAndScan hs
    · exact hs
  have hb : P b := by
    unfold b
    split
    · exact law.congr ha (keeps_linesOf (frameWork_keeps a order))
    · exact ha
  have hc : P c := law.actOnRun (law.next hb)
  split
  · exact law.openWork hc
  · exact hc

theorem exec (i : Instr) (hs : P s) (h : Machine.exec i s = .next t) : P t := by
  cases i with
  | pinReset => cases h; exact law.pin hs
  | softReset => cases h; exact law.soft hs
  | run w =>
    cases h
    split
    · exact law.soft hs
    · exact law.congr hs rfl
  | enableMask w =>
    cases h
    split
    · exact law.soft hs
    · exact law.congr hs rfl
  | windowFaultClear w =>
    cases h
    split
    · exact law.congr hs rfl
    · exact hs
  | registerWrite r w => exact law.write r w hs h
  | seatHighwayCycle up =>
    cases h
    split
    · next hcycle => exact law.cycle up hcycle hs
    · exact hs
  | debounceComplete slot bit => cases h; exact law.debounce slot bit hs
  | receiveStoreArrival slots => cases h; exact law.arrive slots hs
  | transmitStoreRead => cases h; exact law.transmit hs
  | cycleStart bits => cases h; exact law.start bits hs
  | syncTest sync => cases h; exact law.sync sync hs
  | frameBoundary turns order =>
    cases h
    have hload : P (s.loadTurns turns) := law.congr hs rfl
    split
    · exact law.congr (law.boundary order hload) rfl
    · exact hs
  | hostTickExpiry turns =>
    cases h
    have hload : P (s.loadTurns turns) := law.congr hs rfl
    split
    · exact law.congr (law.expireAndScan hload) rfl
    · exact hs

theorem step (hs : P s) (h : Machine.step s = .next t) : P t := by
  obtain rfl | ⟨i, rest, -, h⟩ := BusSide.step_cases h
  · exact hs
  · exact law.exec (s := { s with pending := rest }) i (law.congr hs rfl) h

end LineLaw

/-! ## Alignment (R173, R174) -/

theorem alignBase_low (w : Word) : (alignBase w).extractLsb' 0 14 = 0 :=
  extractLsb'_eq_zero fun i hi => by
    rw [getLsbD_alignBase, decide_eq_false (by omega), Bool.false_and]

theorem alignWindow_low (w : Word) : (alignWindow w).extractLsb' 0 2 = 0 :=
  extractLsb'_eq_zero fun i hi => by
    rw [getLsbD_alignWindow, decide_eq_false (by omega), Bool.false_and]

theorem aligned_law : LineLaw fun s => s.regs.aligned ∧ s.areaAligned where
  congr {s t} hs h := by
    simp only [linesOf, Prod.mk.injEq] at h
    obtain ⟨hstation, hbase, hlimit, harea, -⟩ := h
    unfold Regs.aligned State.areaAligned
    rw [hstation, hbase, hlimit, harea]
    exact hs
  pin _ := ⟨⟨rfl, rfl, rfl⟩, rfl⟩
  soft hs := ⟨hs.1, rfl⟩
  write r w hs h := by
    obtain ⟨⟨hstation, hbase, hlimit⟩, harea⟩ := hs
    cases r with
    | stationBase => cases h; exact ⟨⟨alignBase_low w, hbase, hlimit⟩, harea⟩
    | windowBase => cases h; exact ⟨⟨hstation, alignWindow_low w, hlimit⟩, harea⟩
    | windowLimit => cases h; exact ⟨⟨hstation, hbase, alignWindow_low w⟩, harea⟩
    | frame => cases h; exact ⟨⟨hstation, hbase, hlimit⟩, harea⟩
  debounce _ _ hs := hs
  arrive _ hs := hs
  transmit hs := hs
  start _ hs := hs
  sync _ hs := hs
  cycle _ _ hs := hs
  next hs := hs
  stop hs := hs
  resume hs := hs
  promote hs := ⟨hs.1, hs.1.1⟩

/-- Settles O25: a write of an address register stores an aligned word, and the area is sampled from one. -/
theorem alignmentKept : Obligations.AlignmentKept := by
  unfold Obligations.AlignmentKept
  exact fun s t hregs harea h => aligned_law.step ⟨hregs, harea⟩ h

/-! ## The elastic stores -/

/-- Both laws of the stores. -/
def storesLaw (p : NetPort) : Prop := p.bounded ∧ p.storesOk

variable {p q : NetPort}

/-- A LOCKED port within the bounds. -/
theorem storesLaw_of_locked (hlock : p.lock = .locked) (h : p.bounded) : storesLaw p := ⟨h, fun hno => absurd hlock hno⟩

/-- Empty stores are lawful in every state of the lock. -/
theorem storesLaw_of_empty (hrx : p.rx = []) (htx : p.tx = []) (hcount : p.consecutive ≤ 32) : storesLaw p :=
  ⟨⟨by rw [hrx]; exact Nat.zero_le 64, by rw [htx]; exact Nat.zero_le 64, hcount⟩, fun _ => ⟨hrx, htx⟩⟩

theorem length_push {α : Type} (l : List α) (x : α) (h : l.length ≤ 64) :
    ((if 64 ≤ l.length then l.tail else l) ++ [x]).length ≤ 64 := by
  split <;> simp only [List.length_append, List.length_tail, List.length_singleton] <;> omega

theorem goLocked_storesLaw (working : Bool) (p : NetPort) : storesLaw (goLocked working p).1 := by
  refine storesLaw_of_locked rfl ⟨?_, ?_, Nat.zero_le 32⟩ <;> cases working <;> simp [goLocked, Config.storeLock]

theorem pushRx_storesLaw (x : RxCycle) (hlock : p.lock = .locked) (h : p.bounded) : storesLaw (pushRx x p).1 := by
  obtain ⟨hrx, htx, hcount⟩ := h
  rw [pushRx_eq]
  refine storesLaw_of_locked hlock ⟨?_, htx, hcount⟩
  have happend : (if 64 ≤ p.rx.length then p.rx.tail ++ [x] else p.rx ++ [x]) =
      (if 64 ≤ p.rx.length then p.rx.tail else p.rx) ++ [x] := by split <;> rfl
  exact (congrArg List.length happend).trans_le (length_push p.rx x hrx)

theorem arrive_storesLaw (working : Bool) (slots : Vector Word 33) (h : storesLaw p) :
    storesLaw (arrive working slots p).1 := by
  unfold arrive
  split
  · next hworks =>
    obtain ⟨⟨hrx, htx, hcount⟩, -⟩ := h
    refine pushRx_storesLaw _ ?_ ?_ <;> unfold checkCycle <;> dsimp only <;> split
    · exact hworks.1
    · exact hworks.1
    · exact ⟨hrx, htx, Nat.min_le_left ..⟩
    · exact ⟨hrx, htx, Nat.zero_le 32⟩
  · exact h

theorem readTx_storesLaw (working : Bool) (h : storesLaw p) : storesLaw (readTx working p).1 := by
  obtain ⟨⟨hrx, htx, hcount⟩, hstores⟩ := h
  unfold readTx
  split
  · next hlock =>
    split
    · split
      · next x rest hcons =>
        rw [hcons, List.length_cons] at htx
        exact storesLaw_of_locked hlock ⟨hrx, Nat.le_of_succ_le htx, hcount⟩
      · exact storesLaw_of_locked hlock ⟨hrx, htx, hcount⟩
    · exact storesLaw_of_locked hlock ⟨hrx, htx, hcount⟩
  · exact ⟨⟨hrx, htx, hcount⟩, hstores⟩

theorem seeCycleStart_storesLaw (working : Bool) (bits : Nat) (h : storesLaw p) :
    storesLaw (seeCycleStart working bits p).1 := by
  unfold seeCycleStart
  split
  · extract_lets run q
    split
    · exact goLocked_storesLaw ..
    · exact h
  · exact h

theorem testSync_storesLaw (sync : List Bool) (h : storesLaw p) : storesLaw (testSync sync p).1 := by
  unfold testSync
  split
  · split
    · exact h
    · split
      · exact storesLaw_of_empty rfl rfl h.1.2.2
      · exact h
  · exact h

theorem netPortCycle_storesLaw (working : Bool) (x : Vector Sample 32) (h : storesLaw p) :
    storesLaw (netPortCycle working x p).1 := by
  have hlead : ∀ q : NetPort, storesLaw q → storesLaw (leadLock working q).1 := fun q hq => by
    unfold leadLock
    split
    · exact goLocked_storesLaw ..
    · exact hq
  obtain ⟨⟨hrx, htx, hcount⟩, hstores⟩ := h
  by_cases hworks : p.lock = .locked ∧ working = true
  · obtain ⟨hlock, rfl⟩ := hworks
    rw [netPortCycle_works hlock]
    have htail : p.rx.tail.length ≤ 64 := by rw [List.length_tail]; omega
    exact hlead _ (storesLaw_of_locked hlock ⟨htail, length_push p.tx x htx, hcount⟩)
  · rw [netPortCycle_idle hworks]
    exact hlead _ ⟨⟨hrx, htx, hcount⟩, hstores⟩

theorem storesLaw_law : LineLaw fun s => storesLaw s.nh where
  congr {s t} hs h := by
    simp only [linesOf, Prod.mk.injEq] at h
    obtain ⟨-, -, -, -, -, hnet, -⟩ := h
    have hfields := congrArg (fun p : NetPort => (p.rx, p.tx, p.consecutive, p.lock)) hnet
    simp only [netCore, Prod.mk.injEq] at hfields
    obtain ⟨hrx, htx, hcount, hlock⟩ := hfields
    unfold storesLaw NetPort.bounded NetPort.storesOk
    rw [hrx, htx, hcount, hlock]
    exact hs
  pin _ := storesLaw_of_empty rfl rfl (Nat.zero_le 32)
  soft _ := storesLaw_of_empty rfl rfl (Nat.zero_le 32)
  write r _ hs h := by cases r <;> cases h <;> exact hs
  debounce _ _ hs := hs
  arrive slots hs := arrive_storesLaw _ slots hs
  transmit hs := readTx_storesLaw _ hs
  start bits hs := seeCycleStart_storesLaw _ bits hs
  sync bits hs := testSync_storesLaw bits hs
  cycle _ _ hs := netPortCycle_storesLaw _ _ hs
  next {s} hs := by
    show storesLaw s.nh.opened
    unfold NetPort.opened
    dsimp only
    split
    · exact storesLaw_of_empty rfl rfl (Nat.zero_le 32)
    · exact hs
  stop hs := storesLaw_of_empty rfl rfl hs.1.2.2
  resume {s} hs := by
    show storesLaw s.nh.resume
    unfold NetPort.resume
    split
    · next hlock =>
      refine storesLaw_of_locked hlock ⟨?_, ?_, hs.1.2.2⟩ <;> simp [Config.storeLock]
    · exact hs
  promote hs := hs

/-- Settles O29: an entry is put into a store of at most 63, and going out of LOCKED empties both. -/
theorem storesBounded : Obligations.StoresBounded := by
  unfold Obligations.StoresBounded
  exact fun s t hbounded hstores h => storesLaw_law.step ⟨hbounded, hstores⟩ h

/-! ## The timeline in a frame -/

theorem settled_count (d : Debounce) (h : d.count ≤ 16) : d.settled.count ≤ 15 := by
  unfold Debounce.settled
  split
  · exact Nat.zero_le 15
  · next hno => omega

theorem sampled_count (d : Debounce) (bit : Bool) (h : d.count ≤ 16) : (d.sampled bit).count ≤ 16 := by
  have hsettled := settled_count d h
  unfold Debounce.sampled
  dsimp only
  split
  · exact Nat.zero_le 16
  · show d.settled.count + 1 ≤ 16
    omega

theorem countsOk_reset : SlotStatus.reset.countsOk := ⟨Nat.zero_le 16, Nat.zero_le 16, Nat.zero_le 16⟩

theorem modBit_countsOk {x : SlotStatus} (bit : StatusBit) (h : x.countsOk) : (x.modBit bit Debounce.settled).countsOk := by
  obtain ⟨hpresent, hmute, htalk⟩ := h
  cases bit with
  | present => exact ⟨(settled_count _ hpresent).trans (by omega), hmute, htalk⟩
  | muteKey => exact ⟨hpresent, (settled_count _ hmute).trans (by omega), htalk⟩
  | talkKey => exact ⟨hpresent, hmute, (settled_count _ htalk).trans (by omega)⟩

theorem leadLock_ys (working : Bool) (p : NetPort) : (leadLock working p).1.ys = p.ys := by
  unfold leadLock
  split <;> rfl

theorem netPortCycle_ys_length (working : Bool) (x : Vector Sample 32) (p : NetPort) :
    (netPortCycle working x p).1.ys.length = p.ys.length + 1 := by
  by_cases hworks : p.lock = .locked ∧ working = true
  · obtain ⟨hlock, rfl⟩ := hworks
    rw [netPortCycle_works hlock, leadLock_ys, List.length_append, List.length_singleton]
  · rw [netPortCycle_idle hworks, leadLock_ys, List.length_append, List.length_singleton]

/-- The other events of the Network Highway leave the frame's samples. -/
theorem arrive_ys (working : Bool) (slots : Vector Word 33) (p : NetPort) : (arrive working slots p).1.ys = p.ys := by
  unfold arrive
  split
  · dsimp only
    rw [pushRx_eq]
    unfold checkCycle
    dsimp only
    split <;> rfl
  · rfl

theorem readTx_ys (working : Bool) (p : NetPort) : (readTx working p).1.ys = p.ys := by
  unfold readTx
  split
  · split
    · split <;> rfl
    · rfl
  · rfl

theorem seeCycleStart_ys (working : Bool) (bits : Nat) (p : NetPort) : (seeCycleStart working bits p).1.ys = p.ys := by
  unfold seeCycleStart
  split
  · extract_lets run q
    split <;> rfl
  · rfl

theorem testSync_ys (sync : List Bool) (p : NetPort) : (testSync sync p).1.ys = p.ys := by
  unfold testSync
  split
  · split
    · rfl
    · split <;> rfl
  · rfl

theorem timelineOk_of_slots {s t : State} (h : s.timelineOk) (hcycle : t.cycle = s.cycle) (hmics : t.sh.mics = s.sh.mics)
    (hys : t.nh.ys = s.nh.ys) (hslots : ∀ k : SeatNo, t.sh.slots[k].countsOk) : t.timelineOk := by
  obtain ⟨hle, hm, hy, -⟩ := h
  unfold State.timelineOk
  rw [hcycle, hmics, hys]
  exact ⟨hle, hm, hy, hslots⟩

theorem countsOk_replicate (k : SeatNo) : (Vector.replicate 32 SlotStatus.reset)[k].countsOk := by
  rw [Fin.getElem_fin, Vector.getElem_replicate]
  exact countsOk_reset

theorem timelineOk_law : LineLaw State.timelineOk where
  congr {s t} hs h := by
    simp only [linesOf, Prod.mk.injEq] at h
    obtain ⟨-, -, -, -, hcycle, hnet, hseat⟩ := h
    have hys := congrArg NetPort.ys hnet
    have hmics := congrArg SeatPort.mics hseat
    have hslots : t.sh.slots = s.sh.slots := by
      have hsame := congrArg SeatPort.slots hseat
      exact hsame
    refine timelineOk_of_slots hs hcycle hmics hys fun k => ?_
    rw [hslots]
    exact hs.2.2.2 k
  pin _ := ⟨Nat.zero_le 80, rfl, rfl, countsOk_replicate⟩
  soft _ := ⟨Nat.zero_le 80, rfl, rfl, countsOk_replicate⟩
  write r _ hs h := by cases r <;> cases h <;> exact hs
  debounce {s} k bit hs := by
    refine timelineOk_of_slots hs rfl rfl rfl fun j => ?_
    show (s.sh.slots.set k (s.sh.slots[k].modBit bit Debounce.settled))[j].countsOk
    rw [Fin.getElem_fin, Vector.getElem_set]
    split
    · exact modBit_countsOk bit (hs.2.2.2 k)
    · exact hs.2.2.2 j
  arrive {s} slots hs := timelineOk_of_slots hs rfl rfl (arrive_ys ..) hs.2.2.2
  transmit {s} hs := timelineOk_of_slots hs rfl rfl (readTx_ys ..) hs.2.2.2
  start {s} bits hs := timelineOk_of_slots hs rfl rfl (seeCycleStart_ys ..) hs.2.2.2
  sync {s} bits hs := timelineOk_of_slots hs rfl rfl (testSync_ys ..) hs.2.2.2
  cycle {s} up hlt hs := by
    obtain ⟨hle, hmics, hys, hcounts⟩ := hs
    refine ⟨hlt, ?_, ?_, fun k => ?_⟩
    · show (s.sh.mics ++ [_]).length = s.cycle + 1
      rw [List.length_append, List.length_singleton, hmics]
    · exact (netPortCycle_ys_length ..).trans (congrArg (· + 1) hys)
    · show (seatPortCycle s up).slots[k].countsOk
      by_cases hworks : s.sh.running = true ∧ s.running = true
      · rw [seatPortCycle_sampled up hworks.1 hworks.2]
        obtain ⟨hpresent, hmute, htalk⟩ := hcounts k
        exact ⟨sampled_count _ _ hpresent, sampled_count _ _ hmute, sampled_count _ _ htalk⟩
      · rw [seatPortCycle_slots up (by simpa only [Bool.not_eq_true] using not_and_or.1 hworks)]
        exact hcounts k
  next {s} hs := by
    have hys : s.nh.opened.ys = [] := by
      unfold NetPort.opened
      dsimp only
      split <;> rfl
    have hmics : s.sh.opened.mics = [] := by
      unfold SeatPort.opened
      dsimp only
      split <;> rfl
    refine ⟨Nat.zero_le 80, congrArg List.length hmics, congrArg List.length hys, fun k => ?_⟩
    show s.sh.opened.slots[k].countsOk
    unfold SeatPort.opened
    dsimp only
    split
    · exact countsOk_replicate k
    · exact hs.2.2.2 k
  stop {s} hs := by
    refine timelineOk_of_slots hs rfl rfl rfl fun k => ?_
    show (tabulate fun k => s.sh.slots[k].stopped)[k].countsOk
    rw [tabulate_get]
    exact countsOk_reset
  resume {s} hs := by
    refine timelineOk_of_slots hs rfl rfl ?_ hs.2.2.2
    show s.nh.resume.ys = s.nh.ys
    unfold NetPort.resume
    split <;> rfl
  promote hs := hs

/-- Settles O34: a cycle adds one row to each highway's samples, and every buffer is filled whole. -/
theorem timelineKept : Obligations.TimelineKept := by
  unfold Obligations.TimelineKept
  exact ⟨fun s t hs h => timelineOk_law.step hs h, fun s t hs h => framesOk_step hs h⟩

end Sys2Proof.LineLaws
end

section
/-! Listener counts and stream adoption (O31). -/

namespace Sys2Proof.Listeners

open Sys2Proof.Machine Sys2Proof.Laws Sys2Proof.SeatActs Sys2Proof.RecordTaken Sys2Proof.RecordFrame Sys2Proof.StepLaws
  Sys2Proof.StreamLaws

variable {s t : State} {k : SeatNo}

/-! ## Counting -/

/-- A property that changes of one seat alone changes the count of the seats that have it by that seat. -/
theorem countP_change {p q : SeatNo → Bool} (h : ∀ j, j ≠ k → q j = p j) :
    (List.finRange 32).countP q + (if p k then 1 else 0) = (List.finRange 32).countP p + (if q k then 1 else 0) := by
  have hperm : (List.finRange 32).Perm (k :: (List.finRange 32).erase k) := List.perm_cons_erase (List.mem_finRange k)
  have hrest : ((List.finRange 32).erase k).countP q = ((List.finRange 32).erase k).countP p :=
    List.countP_congr fun j hj => by rw [h j (((List.nodup_finRange 32).mem_erase_iff).1 hj).1]
  rw [hperm.countP_eq, hperm.countP_eq, List.countP_cons, List.countP_cons, hrest]
  omega

theorem hear_listeners {was is : StreamNo → Bool} {j : StreamNo} {st : Stream} (h : was j = true → 1 ≤ st.listeners) :
    (hear was is j st).listeners + (if was j then 1 else 0) = st.listeners + (if is j then 1 else 0) := by
  unfold hear
  cases hwas : was j
  · cases his : is j
    · simp
    · simp [joinStream]
  · have hone := h hwas
    cases his : is j
    · simp [leaveStream]
      omega
    · simp

/-! ## The law at every operation -/

/-- One seat joins and leaves as its settings before and after say, the others' settings staying as they were. -/
theorem listenersOk_heard {was is : StreamNo → Bool} (hs : s.listenersOk)
    (hwas : ∀ j, was j = s.seats[k].adopted.listensTo j) (his : ∀ j, is j = t.seats[k].adopted.listensTo j)
    (hothers : ∀ i : SeatNo, i ≠ k → t.seats[i].adopted.routing = s.seats[i].adopted.routing)
    (hstreams : ∀ j : StreamNo, t.streams[j] = hear was is j s.streams[j]) : t.listenersOk := fun j => by
  have hcount := countP_change (k := k) (p := fun i : Fin 32 => s.seats[i].adopted.listensTo j)
    (q := fun i : Fin 32 => t.seats[i].adopted.listensTo j) fun i hi => by unfold Settings.listensTo; rw [hothers i hi]
  have hone : was j = true → 1 ≤ s.streams[j].listeners := fun h => by
    rw [hs j]
    exact List.countP_pos_iff.2 ⟨k, List.mem_finRange k, (hwas j).symm.trans h⟩
  have hheard := hear_listeners (is := is) hone
  rw [← hstreams j, hwas j, his j, hs j] at hheard
  omega

/-- Nothing that the law speaks of changes. -/
theorem listenersOk_same (hs : s.listenersOk) (hseats : ∀ i : SeatNo, t.seats[i].adopted.routing = s.seats[i].adopted.routing)
    (hstreams : ∀ j : StreamNo, t.streams[j].listeners = s.streams[j].listeners) : t.listenersOk := fun j => by
  rw [hstreams j, hs j]
  exact List.countP_congr fun i _ => by simp only [Settings.listensTo, hseats i]

theorem takes_listenersOk {set : Settings → Settings} {due : Due → Due} {mark : PromptUnit → PromptUnit}
    {edition : Option Word} {is : StreamNo → Bool} {L : List NoticeOut}
    (h : Takes k set due mark edition (hear s.seats[k].adopted.listensTo is) L s t)
    (his : ∀ j, is j = (set s.seats[k].adopted).listensTo j) (hs : s.listenersOk) : t.listenersOk :=
  listenersOk_heard hs (fun _ => rfl) (fun j => by rw [takes_adopted h]; exact his j)
    (fun i hi => by
      have hi := congrArg (fun x : Seat => x.adopted.routing) (h.others i hi)
      exact hi) h.streams

theorem modStream_listenersOk {j : StreamNo} {f : Stream → Stream} (hs : s.listenersOk)
    (hf : (f s.streams[j]).listeners = s.streams[j].listeners) : (s.modStream j f).listenersOk :=
  listenersOk_same hs (fun _ => rfl) fun i => by
    rw [modStream_get]
    split
    · next hij => rw [hf, hij]
    · rfl

theorem modSeat_listenersOk {f : Seat → Seat} (hs : s.listenersOk)
    (hf : (f s.seats[k]).adopted = s.seats[k].adopted) : (s.modSeat k f).listenersOk :=
  listenersOk_same hs (fun i => by
    rw [modSeat_get]
    split
    · next hik => rw [hf, hik]
    · rfl) fun _ => rfl

theorem adoptStream_listeners (e : Word) (enable narrow : Bool) (st : Stream) :
    (adoptStream e enable narrow st).listeners = st.listeners := by
  unfold adoptStream
  dsimp only
  split
  · rfl
  · split <;> rfl

theorem reset_listenersOk : State.reset.listenersOk := fun j => by
  have hnone : ∀ i : SeatNo, State.reset.seats[i].adopted.listensTo j = false := fun i => by
    have hseat : State.reset.seats[i] = Seat.reset := by simp [State.reset]
    rw [hseat]
    rfl
  have hstream : State.reset.streams[j].listeners = 0 := by simp [State.reset, Stream.reset]
  rw [hstream, List.countP_eq_zero.2 fun i _ => by rw [hnone i]; exact Bool.false_ne_true]

theorem does_listenersOk {due : Due → Due} {L : List NoticeOut} (h : Does k due stand L s t) (hs : s.listenersOk) :
    t.listenersOk := by
  refine listenersOk_same hs (fun i => ?_) fun j => by rw [h.streams]; rfl
  by_cases hi : i = k
  · rw [hi]
    exact h.routing
  · have hother := congrArg (fun x : Seat => x.adopted.routing) (h.others i hi)
    exact hother

theorem takeSeat_listenersOk (k : SeatNo) (e : Word) (r : SeatRecord) (hs : s.listenersOk) :
    (s.takeSeat k e r).listenersOk := by
  cases hcheck : checkRecord s k r with
  | some why =>
    rw [takeSeat_refused e hcheck]
    have hrefused : (s.refuseSeat k e why).listenersOk :=
      modSeat_listenersOk (f := fun x => { x with edition := some e }) hs rfl
    exact does_listenersOk (retryTail_does _ k) hrefused
  | none => exact takes_listenersOk (takeSeat_takes e hcheck) (fun _ => rfl) hs

theorem leaveService_listenersOk (k : SeatNo) (hs : s.listenersOk) : (s.leaveService k).listenersOk :=
  takes_listenersOk (leaveService_takes s k) (fun _ => rfl) hs

theorem seatWork_adopted (s0 : State) (k : SeatNo) (s : State) :
    (if k.val < s.header.serving then
      frameWorkSeat s.env k (fun j => s0.seats[j].kept) (seatInputs s0 k) s.seats[k] s.io
    else idleSeat s.env k s.seats[k] s.io).1.adopted = s.seats[k].adopted := by
  split
  · unfold frameWorkSeat seatAudio
    rfl
  · rfl

theorem seatWork_listenersOk (s0 : State) (k : SeatNo) (hs : s.listenersOk) : (seatWork s0 k s).listenersOk :=
  modSeat_listenersOk (f := fun _ => _) hs (seatWork_adopted s0 k s)

theorem streamWork_listenersOk (j : StreamNo) (hs : s.listenersOk) : (streamWork j s).listenersOk :=
  modStream_listenersOk (f := fun _ => (fetchStream s.env j s.streams[j] s.io).1) hs (fetchStream_fetched ..).listeners

theorem unitBacks_listenersOk (j : StreamNo) (hs : s.listenersOk) : (unitBacks s (.stream j)).listenersOk := by
  obtain ⟨a, b, hbacks⟩ := writeBacks_stream s.env j s.streams[j] s.io
  exact modStream_listenersOk (f := fun _ => (writeBacks s.env j s.streams[j] s.io).1) hs (by rw [hbacks])

theorem scanSeatCells_listenersOk (k : SeatNo) (hs : s.listenersOk) : (scanSeatCells s k).listenersOk :=
  have hmod : (s.modSeat k fun x => { x with prompt := (scanCells s.env k s.seats[k].prompt s.io).1 }).listenersOk :=
    modSeat_listenersOk hs rfl
  listenersOk_same hmod (fun _ => rfl) fun _ => rfl

theorem listenersOk_law : SeatStreamLaw State.listenersOk where
  congr hs hseats hstreams := listenersOk_same hs (fun _ => by rw [hseats]) fun _ => by rw [hstreams]
  reset := reset_listenersOk
  retry {s} k hs := does_listenersOk (retryTail_does s k) hs
  record k e ws hs := takeSeat_listenersOk k e _ hs
  leave k hs := leaveService_listenersOk k hs
  stream {s} j e b n hs := modStream_listenersOk (f := adoptStream e b n) hs (adoptStream_listeners e b n _)
  cells k hs := scanSeatCells_listenersOk k hs
  detach {s} k cause hs := does_listenersOk (.of_reattaches k (detachAll_reattaches s k cause)) hs
  abandon hs := listenersOk_same hs (fun i => by rw [mapSeats_seats, tabulate_get]) fun _ => rfl
  work {s0 _} k _ hs := seatWork_listenersOk s0 k hs
  fetch j hs := streamWork_listenersOk j hs
  backs j hs := unitBacks_listenersOk j hs
  stop hs := listenersOk_same hs (fun _ => rfl) fun j => by rw [mapStreams_streams, tabulate_get]; rfl
  resume hs := listenersOk_same hs (fun i => by rw [mapSeats_seats, tabulate_get]; rfl) fun j => by
    rw [mapSeats_streams, mapStreams_streams, tabulate_get]; rfl
  opening {s} hs := listenersOk_same hs (fun i => by
    rw [tabulate_get]
    unfold openSeat
    split <;> rfl) fun _ => rfl

/-! ## Joining and leaving (R92), and stream adoption (R89, R93, R94) -/

theorem streamPlace_still (h : s.io.turns = []) (j : StreamNo) (e : Word) : streamPlace s (j, some e) =
    if readMemWord (streamAt s.area.toNat j) s.io.mem = e then
      s.modStream j (adoptStream e ((readMemWord (streamAt s.area.toNat j + 4) s.io.mem).getLsbD 0)
        (decide (readMemWord (streamAt s.area.toNat j + 8) s.io.mem = 1)))
    else s := by
  have hset : s.setIo s.io = s := rfl
  simp only [streamPlace, readStream, readWhole_still h, hset]
  split <;> rfl

/-- Settles O31: a seat's joining and leaving changes one stream's count as its own settings change. -/
theorem listenerCountsKept : Obligations.ListenerCountsKept := by
  unfold Obligations.ListenerCountsKept
  refine ⟨fun s t hs h => listenersOk_law.step hs h, fun s k e r j hcheck => ?record, fun st => ?joins,
    fun e narrow st => ?adopts, fun s j e hturns => ?place⟩
  case record =>
    have htakes := takeSeat_takes e hcheck
    dsimp only
    rw [takes_adopted htakes]
    exact htakes.streams j
  case joins =>
    refine ⟨rfl, fun hwaiting hnone => if_pos ⟨hwaiting, hnone⟩, fun hno => ?_, rfl,
      fun hruns hone => if_pos ⟨hruns, by omega⟩, fun hno => ?_, fun hruns hone => ?_⟩
    · refine if_neg fun ⟨hwaiting, hnone⟩ => ?_
      rcases hno with h | h
      · exact h hwaiting
      · exact h hnone
    · refine if_neg fun ⟨hruns, hone⟩ => ?_
      rcases hno with h | h | h
      · rcases hruns with hr | hr <;> cases h.symm.trans hr
      · rcases hruns with hr | hr <;> cases h.symm.trans hr
      · omega
    · have hleft : leaveStream st = { st with listeners := 0, state := .waiting } := by
        simp [leaveStream, hruns, hone]
      rw [hleft, joinStream, if_pos ⟨rfl, rfl⟩, ← hruns]
      exact congrArg (fun n => { st with listeners := n }) hone.symm
  case adopts =>
    refine ⟨if_pos rfl, fun h => ?_, fun h => ?_⟩
    · by_cases hnone : st.listeners = 0 <;> simp [adoptStream, enableStream, h, hnone, Nat.pos_iff_ne_zero]
    · simp [adoptStream, disableStream, h]
  case place =>
    exact ⟨rfl, fun hno => (streamPlace_still hturns j e).trans (if_neg hno),
      fun hyes => (streamPlace_still hturns j e).trans (if_pos hyes)⟩

end Sys2Proof.Listeners
end

section
/-! The Host Tick Monitor: its expiry, the step that takes it, and the boundary of a stopped part (O19, O21, O22, O23). -/

namespace Sys2Proof.Expiry

open Sys2Proof.Machine Sys2Proof.Laws Sys2Proof.SeatActs
open Sys2Proof.SupervisionLaw (View view view_detachAll view_foldl_detachAll view_enterStandalone)

variable {s : State} {k : SeatNo}

/-! ## Lists emptied one after another -/

theorem foldl_detachAll_target (v : View) (l : List SeatNo) (k : SeatNo) : (l.foldl View.detachAll v).target k =
    if ∃ t ∈ l, ∃ a ∈ v.list t, a.seat = k then none else v.target k := by
  induction l generalizing v with
  | nil => simp
  | cons u l ih =>
    have hu : (v.detachAll u).target k = if ∃ a ∈ v.list u, a.seat = k then none else v.target k := rfl
    rw [List.foldl_cons, ih, hu]
    by_cases hhead : ∃ a ∈ v.list u, a.seat = k
    · rw [if_pos hhead, ite_self, if_pos ⟨u, List.mem_cons_self, hhead⟩]
    · have hiff : (∃ t ∈ l, ∃ a ∈ (v.detachAll u).list t, a.seat = k) ↔ ∃ t ∈ u :: l, ∃ a ∈ v.list t, a.seat = k := by
        rw [List.exists_mem_cons_iff, or_iff_right hhead]
        refine exists_congr fun t => and_congr_right fun _ => ?_
        rw [View.detachAll_list]
        split
        · next ht => simpa [ht] using hhead
        · rfl
      rw [if_neg hhead]
      exact if_congr hiff rfl rfl

/-- Each list still stands when its turn comes, so that every entry has its notice. -/
theorem foldl_detachAll_reattaches (cause : Word) {l : List SeatNo} (hl : l.Nodup) (s : State) :
    Reattaches (l.flatMap fun t => detached t cause s.seats[t].adopted.supervisors) s
      (l.foldl (fun x t => x.detachAll t cause) s) := by
  induction l generalizing s with
  | nil => exact .refl s
  | cons u l ih =>
    obtain ⟨hu, hl⟩ := List.nodup_cons.1 hl
    have hlists : ∀ t ∈ l, (s.detachAll u cause).seats[t].adopted.supervisors = s.seats[t].adopted.supervisors := by
      intro t ht
      have hlist := congrArg (fun v : View => v.list t) (view_detachAll s u cause)
      exact hlist.trans ((View.detachAll_list ..).trans (if_neg fun heq : t = u => hu (heq ▸ ht)))
    have hrest := ih hl (s.detachAll u cause)
    rw [List.flatMap_congr fun t ht => congrArg (detached t cause) (hlists t ht)] at hrest
    exact (detachAll_reattaches s u cause).trans hrest

/-! ## The expiry (R196, R197) -/

theorem expire_alone (h : s.tick.standalone = true) : s.expire = { s with tick := { s.tick with expired := false } } :=
  if_pos h

theorem expire_late (h : s.tick.standalone = false) (hlate : tickLateThere s.io = false) : s.expire =
    ({ s with tick := { s.tick with expired := false } } : State).hand .tickLate .tickMonitor
      (BitVec.ofNat 32 s.tick.period) s.tick.lastWord 0 := by
  rw [State.expire, h, hlate]
  rfl

theorem expire_enters (h : s.tick.standalone = false) (hlate : tickLateThere s.io = true) : s.expire =
    ({ s with tick := { s.tick with expired := false } } : State).enterStandalone := by
  rw [State.expire, h, hlate]
  rfl

theorem seatNumbers_nodup : seatNumbers.Nodup := List.nodup_finRange 32

theorem mem_seatNumbers (k : SeatNo) : k ∈ seatNumbers := List.mem_finRange k

/-- The notices of entry to stand-alone operation, in order (R85, R197). -/
def entryNotices (s : State) : List NoticeOut :=
  [⟨.standaloneEntered, .tickMonitor, s.tick.lastWord, 0, 0⟩] ++
    seatNumbers.flatMap fun t => detached t 2 s.seats[t].adopted.supervisors

/-- Stand-alone operation begun: the flag set, the count at 0. -/
def begun (s : State) : State := { s with tick := { s.tick with standalone := true, aloneFrames := 0 } }

/-- The notices handed and the lists emptied, the cells not yet marked. -/
def emptied (s : State) : State :=
  seatNumbers.foldl (fun x t => x.detachAll t 2) ((begun s).hand .standaloneEntered .tickMonitor s.tick.lastWord 0 0)

theorem emptied_reattaches (s : State) : Reattaches (entryNotices s) (begun s) (emptied s) := by
  have hentered := hand_reattaches (begun s) .standaloneEntered .tickMonitor s.tick.lastWord 0 0
  have hseats : ((begun s).hand .standaloneEntered .tickMonitor s.tick.lastWord 0 0).seats = s.seats := rfl
  have hemptied := foldl_detachAll_reattaches 2 seatNumbers_nodup
    ((begun s).hand .standaloneEntered .tickMonitor s.tick.lastWord 0 0)
  rw [hseats] at hemptied
  exact hentered.trans hemptied

theorem enterStandalone_eq (s : State) : s.enterStandalone =
    (emptied s).mapSeats fun x => { x with prompt := x.prompt.markAll .abandoned } := rfl

theorem enterStandalone_state (s : State) : s.enterStandalone = { s with
    tick := { s.tick with standalone := true, aloneFrames := 0 }, seats := s.enterStandalone.seats
    io := handAll s.env (entryNotices s) s.io } := by
  have hstate := (emptied_reattaches s).state
  rw [enterStandalone_eq, State.mapSeats]
  generalize tabulate _ = seats
  rw [hstate]
  rfl

theorem enterStandalone_seats (s : State) (k : SeatNo) : s.enterStandalone.seats[k] = { s.seats[k] with
    adopted := { s.seats[k].adopted with supervisors := [], attachedTo := s.enterStandalone.seats[k].adopted.attachedTo }
    prompt := s.seats[k].prompt.markAll .abandoned } := by
  have hseat := (emptied_reattaches s).seats k
  have hlist : s.enterStandalone.seats[k].adopted.supervisors = [] := by
    have hview := congrArg (fun v : View => v.list k) (view_enterStandalone s)
    exact hview.trans ((View.foldl_detachAll_list ..).trans (if_pos (mem_seatNumbers k)))
  have hmarked : s.enterStandalone.seats[k] =
      { (emptied s).seats[k] with prompt := (emptied s).seats[k].prompt.markAll .abandoned } := by
    rw [enterStandalone_eq, mapSeats_seats, tabulate_get]
  rw [hmarked] at hlist ⊢
  dsimp only at hlist ⊢
  generalize (emptied s).seats[k] = y at hseat hlist ⊢
  rw [hseat]
  exact congrArg (fun l => { s.seats[k] with
    adopted := { s.seats[k].adopted with supervisors := l, attachedTo := y.adopted.attachedTo }
    prompt := s.seats[k].prompt.markAll .abandoned }) hlist

theorem enterStandalone_released (h : ∃ t : SeatNo, ∃ a ∈ s.seats[t].adopted.supervisors, a.seat = k) :
    s.enterStandalone.seats[k].adopted.attachedTo = none := by
  obtain ⟨t, ha⟩ := h
  have hview := congrArg (fun v : View => v.target k) (view_enterStandalone s)
  exact hview.trans ((foldl_detachAll_target ..).trans (if_pos ⟨t, mem_seatNumbers t, ha⟩))

theorem enterStandalone_kept (h : ¬ ∃ t : SeatNo, ∃ a ∈ s.seats[t].adopted.supervisors, a.seat = k) :
    s.enterStandalone.seats[k].adopted.attachedTo = s.seats[k].adopted.attachedTo := by
  have hview := congrArg (fun v : View => v.target k) (view_enterStandalone s)
  exact hview.trans ((foldl_detachAll_target ..).trans (if_neg fun ⟨t, _, ha⟩ => h ⟨t, ha⟩))

/-- Settles O22: the lists are emptied one after another, each as it stood before the expiry. -/
theorem expiryOutcome : Obligations.ExpiryOutcome := by
  unfold Obligations.ExpiryOutcome
  refine fun s => ⟨expire_alone, fun halone hlate => (expire_late halone hlate).trans rfl, fun halone hlate => ?enters⟩
  case enters =>
    rw [expire_enters halone hlate]
    generalize hu : ({ s with tick := { s.tick with expired := false } } : State) = u
    have hseats : u.seats = s.seats := by rw [← hu]
    refine ⟨?state, fun k => ?seat⟩
    case state =>
      have hstate := enterStandalone_state u
      rw [hstate, ← hu]
      rfl
    case seat =>
      have hseat := enterStandalone_seats u k
      have hgone := enterStandalone_released (s := u) (k := k)
      have hkept := enterStandalone_kept (s := u) (k := k)
      rw [hseats] at hseat hgone hkept
      refine ⟨hseat, hgone, hkept, fun hlaw => ?_⟩
      obtain ⟨-, hagree, -⟩ := hlaw
      by_cases hlisted : ∃ t : SeatNo, ∃ a ∈ s.seats[t].adopted.supervisors, a.seat = k
      · exact hgone hlisted
      · rw [hkept hlisted]
        exact Option.eq_none_iff_forall_ne_some.2 fun t ht => hlisted ⟨t, (hagree k t).1 ht⟩

/-! ## The step that takes an expiry -/

/-- What an expiry leaves of the part. -/
theorem expire_state (s : State) : s.expire = { s with tick := s.expire.tick, seats := s.expire.seats, io := s.expire.io } := by
  cases halone : s.tick.standalone with
  | true => rw [expire_alone halone]
  | false =>
    cases hlate : tickLateThere s.io with
    | false => rw [expire_late halone hlate]; rfl
    | true =>
      rw [expire_enters halone hlate]
      generalize hu : ({ s with tick := { s.tick with expired := false } } : State) = u
      rw [enterStandalone_state u, ← hu]

theorem expire_tick (s : State) : s.expire.tick.expired = false ∧
    s.expire.tick.standalone = (s.tick.standalone || tickLateThere s.io) := by
  cases halone : s.tick.standalone with
  | true => rw [expire_alone halone]; exact ⟨rfl, halone⟩
  | false =>
    cases hlate : tickLateThere s.io with
    | false => rw [expire_late halone hlate]; exact ⟨rfl, halone⟩
    | true =>
      rw [expire_enters halone hlate, enterStandalone_state]
      exact ⟨rfl, rfl⟩

/-- The seats that a boundary scans. -/
theorem scanned_eq (s : State) : s.scanned =
    (List.finRange 32).filter fun k => decide (k.val < s.header.serving ∧ k.val < s.header.seats) :=
  List.filter_congr fun _ _ => (Bool.decide_and ..).symm

/-- Settles O21: the scans are those of the state that the expiry leaves. -/
theorem hostTickExpiryCompletes : Obligations.HostTickExpiryCompletes := by
  unfold Obligations.HostTickExpiryCompletes
  intro turns s hexpired
  have hexec : exec (.hostTickExpiry turns) s = .next (s.loadTurns turns).expireAndScan.drained :=
    congrArg Host.Outcome.next (if_pos hexpired)
  refine ⟨_, hexec, ?scans, ?rest⟩
  case scans =>
    intro x seats scanned
    have hscans : x.scans = scanned := by
      have halone : x.tick.standalone = (s.tick.standalone || tickLateThere s.io) :=
        (expire_tick (s.loadTurns turns)).2
      by_cases hwas : s.tick.standalone = true ∨ tickLateThere s.io = true
      · have hscanned : scanned = (seats x).foldl State.retryTail x := if_pos hwas
        have hyes : x.tick.standalone = true := halone.trans (Bool.or_eq_true_iff.2 hwas)
        rw [hscanned, State.scans, if_pos hyes, State.retries, scanned_eq]
      · have hscanned : scanned = (seats x.adoptionScan).foldl scanSeatCells x.adoptionScan := if_neg hwas
        have hno : ¬ x.tick.standalone = true := fun h => hwas (Bool.or_eq_true_iff.1 (halone.symm.trans h))
        rw [hscanned, State.scans, if_neg hno, State.cellScan, scanned_eq]
    exact ⟨rfl, hscans, congrArg State.drained hscans⟩
  case rest =>
    have hstate := expire_state (s.loadTurns turns)
    obtain ⟨hdone, halone⟩ := expire_tick (s.loadTurns turns)
    unfold State.expireAndScan
    generalize (s.loadTurns turns).expire = x at hstate hdone halone ⊢
    have hkeeps := scans_keeps (lo := 0) (hi := 0) x
    exact ⟨hkeeps.pending.trans (by rw [hstate]; rfl), hkeeps.regs.trans (by rw [hstate]; rfl),
      hkeeps.frame.trans (by rw [hstate]; rfl), hkeeps.cycle.trans (by rw [hstate]; rfl),
      hkeeps.running.trans (by rw [hstate]; rfl), hkeeps.area.trans (by rw [hstate]; rfl),
      hkeeps.lock.trans (by rw [hstate]; rfl), hkeeps.expired.trans hdone, hkeeps.standalone.trans halone, rfl⟩

/-! ## A stopped part (R177) -/

/-- Settles O19: with no expiry due nothing is left of the boundary but its opening. -/
theorem stoppedBoundaryIsSilent : Obligations.StoppedBoundaryIsSilent := by
  unfold Obligations.StoppedBoundaryIsSilent
  intro turns order s hcycle hstopped hrun hexpired
  have hsettled : (s.loadTurns turns).settleExpiry = s.loadTurns turns := if_neg (by rw [loadTurns_tick, hexpired]; decide)
  have hboundary : (s.loadTurns turns).boundary order = (s.loadTurns turns).nextFrame := by
    simp [State.boundary, hsettled, State.actOnRun, State.nextFrame, hstopped, hrun]
  refine congrArg Host.Outcome.next ((if_pos hcycle).trans ?_)
  rw [hboundary]
  rfl

/-! ## The monitor's count (R195) -/

theorem observe_same {t : TickMonitor} {w : Word} (hlast : t.last = some w) (hperiod : t.period ≠ 0) :
    t.observe (some w) = t.unchanged := by
  rw [TickMonitor.observe, if_neg hperiod]
  exact if_pos hlast

/-- Unchanged boundaries that do not make up T leave all but the count. -/
theorem foldl_observe_same {t : TickMonitor} {w : Word} (hcount : t.count = 0) (hlast : t.last = some w) :
    ∀ n, n < t.period → (List.replicate n (some w)).foldl TickMonitor.observe t = { t with count := n } := by
  intro n
  induction n with
  | zero =>
    intro _
    cases t
    cases hcount
    rfl
  | succ n ih =>
    intro hn
    have hperiod : t.period ≠ 0 := Nat.ne_of_gt (Nat.zero_lt_of_lt hn)
    rw [List.replicate_succ', List.foldl_append, ih (Nat.lt_of_succ_lt hn)]
    exact (observe_same (t := { t with count := n }) hlast hperiod).trans (if_neg (Nat.ne_of_lt hn))

/-- Settles O23: by induction on the number of unchanged boundaries before the last. -/
theorem monitorExpiresAfterT : Obligations.MonitorExpiresAfterT := by
  unfold Obligations.MonitorExpiresAfterT
  refine ⟨fun t w n hcount hexpired hlast hone hn => ?count, fun t w hperiod hchanged => ?changed⟩
  case count =>
    obtain hlt | rfl := Nat.lt_or_eq_of_le hn
    · dsimp only
      rw [foldl_observe_same hcount hlast n hlt]
      simp [Nat.ne_of_lt hlt, hexpired]
    · obtain ⟨m, hm⟩ : ∃ m, t.period = m + 1 := ⟨t.period - 1, by omega⟩
      dsimp only
      have hperiod : t.period ≠ 0 := by omega
      have hlaw : (List.replicate (m + 1) (some w)).foldl TickMonitor.observe t = ({ t with count := m } : TickMonitor).unchanged := by
        rw [List.replicate_succ', List.foldl_append, foldl_observe_same hcount hlast m (by omega)]
        exact observe_same (t := { t with count := m }) hlast hperiod
      rw [hm, hlaw]
      simp [TickMonitor.unchanged, hm]
  case changed =>
    rw [TickMonitor.observe, if_neg hperiod]
    exact if_neg hchanged

end Sys2Proof.Expiry
end

section
/-! The reset state (O35). -/

namespace Sys2Proof.ResetState

open Sys2Proof.Machine Sys2Proof.Laws Sys2Proof.BusSide Sys2Proof.SeatLaws Sys2Proof.StreamLaws Sys2Proof.LineLaws
  Sys2Proof.Listeners

theorem reset_seat (k : SeatNo) : State.reset.seats[k] = Seat.reset := by simp [State.reset]

theorem reset_stream (j : StreamNo) : State.reset.streams[j] = Stream.reset := by simp [State.reset]

theorem reset_settingsOk : State.reset.settingsOk := fun k => by
  rw [reset_seat]
  exact settingsOk_law.reset

theorem reset_ordersOk : State.reset.ordersOk := fun k => by
  rw [reset_seat]
  exact ordersOk_law.reset

theorem reset_framesOk : State.reset.framesOk := by
  refine ⟨fun k => ?_, fun j => ?_⟩
  · rw [reset_seat]
    exact framesOk_law.reset
  · rw [reset_stream]
    exact buffersOk_law.reset

theorem reset_timelineOk : State.reset.timelineOk := ⟨Nat.zero_le 80, rfl, rfl, countsOk_replicate⟩

theorem reset_stores : State.reset.nh.bounded ∧ State.reset.nh.storesOk := storesLaw_of_empty rfl rfl (Nat.zero_le 32)

theorem reset_pool : State.reset.pool = List.range 256 := by simp only [State.reset]

/-- Settles O35: field by field, and the laws as they begin. -/
theorem resetStateIsRight : Obligations.ResetStateIsRight := by
  unfold Obligations.ResetStateIsRight
  refine ⟨fun k => ?seat, reset_stream, reset_pool, fun n => ?slot, rfl, rfl, rfl, rfl, rfl, fun x => ?cls, rfl, rfl, rfl,
    fun k => ?status, rfl, rfl, rfl, rfl, rfl, ⟨rfl, rfl, rfl⟩, rfl, noticesOk_of_empty fun x => ?waiting,
    reset_stores.1, reset_stores.2, reset_settingsOk, reset_listenersOk, reset_ordersOk, reset_timelineOk, reset_framesOk⟩
  case seat =>
    dsimp only
    rw [reset_seat]
    exact ⟨rfl, rfl, rfl, rfl, rfl, rfl, rfl, rfl, rfl, rfl, rfl, rfl, rfl, rfl, rfl, rfl, rfl, rfl, rfl, rfl, rfl, rfl,
      rfl, rfl, rfl, rfl, rfl, rfl, rfl⟩
  case slot => simp [State.reset]
  case cls => cases x <;> rfl
  case status =>
    simp [State.reset, SeatPort.reset]
    rfl
  case waiting => cases x <;> rfl

end Sys2Proof.ResetState
end

section
/-! The header (R181, R182), the seats that it takes out of service (R1), and the order of the scan (R179); O55. -/

namespace Sys2Proof.Headers

open Sys2Proof.Machine Sys2Proof.Laws Sys2Proof.SeatActs Sys2Proof.RecordTaken Sys2Proof.RecordFrame
open Sys2Proof.SlotLaw (slotView SlotView slotView_enterIdle slotView_modAdopted_routing slotView_modSeat)
open Sys2Proof.SupervisionLaw (View view view_leaveService attachmentsOk_iff)

variable {s t u : State} {k : SeatNo}

/-! ## One seat out of service -/

/-- The slots of a seat that leaves service are freed (R5). -/
theorem leaveService_slotMap (s : State) (k : SeatNo) (n : SlotNo) : (s.leaveService k).slotMap[n] =
    if s.seats[k].adopted.routing.mode.holdsSlot = true ∧ s.slotMap[n] = some k then none else s.slotMap[n] := by
  have hview : slotView (s.leaveService k) =
      if s.seats[k].adopted.routing.mode.holdsSlot = true then
        (slotView (s.modAdopted k fun g => { g with routing := { g.routing with mode := .idle } })).free k none
      else slotView (s.modAdopted k fun g => { g with routing := { g.routing with mode := .idle } }) := by
    unfold State.leaveService
    extract_lets old u w
    refine Eq.trans (slotView_modSeat ?_) (slotView_enterIdle u k old)
    exact fun _ => rfl
  have hn := congrArg (fun v : SlotView => v.slots n) hview
  refine Eq.trans hn ?_
  by_cases hcall : s.seats[k].adopted.routing.mode.holdsSlot = true
  · rw [if_pos hcall]
    simp only [hcall, true_and]
    show (if s.slotMap[n] = some k ∧ none ≠ some n.val then none else s.slotMap[n]) = _
    simp only [ne_eq, reduceCtorEq, not_false_eq_true, and_true]
  · rw [if_neg hcall, if_neg fun h => hcall h.1]
    rfl

/-- A seat taken to IDLE goes off every list, and its own list is emptied. -/
theorem toIdle_list_eq {v : View} (h : v.Linked) (k t : SeatNo) (r : Routing) : (v.toIdle k r).list t =
    if t = k then [] else (v.list t).filter fun a => decide (a.seat ≠ k) := by
  by_cases ht : t = k
  · rw [if_pos ht, ht]
    exact View.toIdle_list v k r
  · rw [if_neg ht]
    have hlist : (v.detachAll k).list t = v.list t := (View.detachAll_list ..).trans (if_neg ht)
    show (if (v.detachAll k).target k = some t then ((v.detachAll k).list t).filter fun a => decide (a.seat ≠ k)
      else (v.detachAll k).list t) = _
    rw [hlist]
    split
    · rfl
    · next htarget =>
      refine (List.filter_eq_self.2 fun a ha => ?_).symm
      rw [decide_eq_true_eq]
      exact fun hseat => htarget (hseat ▸ (h.detachAll k).target_of_mem (hlist ▸ ha))

theorem toIdle_lawful {v : View} (h : v.Lawful) (k : SeatNo) (r : Routing) : (v.toIdle k r).Lawful where
  linked := h.linked.toIdle k r
  alone halone t := by
    rw [toIdle_list_eq h.linked, h.alone halone t]
    split <;> rfl
  governed := h.governed

theorem leaveService_lawful (k : SeatNo) (h : (view s).Lawful) : (view (s.leaveService k)).Lawful :=
  view_leaveService k h.linked ▸ toIdle_lawful h k _

theorem leaveService_list (h : (view s).Lawful) (k t : SeatNo) : (s.leaveService k).seats[t].adopted.supervisors =
    if t = k then [] else s.seats[t].adopted.supervisors.filter fun a => decide (a.seat ≠ k) := by
  have hlist := congrArg (fun v : View => v.list t) (view_leaveService k h.linked)
  exact Eq.trans hlist (toIdle_list_eq h.linked ..)

/-! ## Several seats out of service -/

/-- The notices that the seats of `done` hand when all of `all` leave service in number order: a supervisor that has left
before is off the list. -/
def leavingNotices (all done : List SeatNo) (s : State) : List NoticeOut :=
  done.flatMap fun k =>
    if s.seats[k].adopted.routing.mode.holdsSlot = true then
      detached k 1 (s.seats[k].adopted.supervisors.filter fun a => decide (¬ (a.seat ∈ all ∧ a.seat < k)))
    else []

/-- `t` is `s` with the seats of `done`, of all those that leave, taken out of service. -/
structure Left (all done : List SeatNo) (s t : State) : Prop where
  state : t = { s with seats := t.seats, streams := t.streams, pool := t.pool, slotMap := t.slotMap
                       io := handAll s.env (leavingNotices all done s) s.io }
  gone : ∀ k ∈ done, t.seats[k] = { s.seats[k] with
    edition := none, adopted := attachedAs (toIdle s.seats[k].adopted) t.seats[k].adopted
    due := idleDue s.seats[k].adopted s.seats[k].due, blocks := t.seats[k].blocks, waiting := t.seats[k].waiting
    prompt := s.seats[k].prompt.markAll .abandoned }
  stays : ∀ k, k ∉ done → t.seats[k] = seatAttachedAs s.seats[k] t.seats[k]
  lists : ∀ k, k ∉ done →
    t.seats[k].adopted.supervisors = s.seats[k].adopted.supervisors.filter fun a => decide (a.seat ∉ done)
  slots : ∀ n : SlotNo, t.slotMap[n] = match s.slotMap[n] with
    | some k => if k ∈ done ∧ s.seats[k].adopted.routing.mode.holdsSlot = true then none else some k
    | none => none
  streams : ∀ j : StreamNo,
    t.streams[j] = leaveStream^[done.countP fun k => s.seats[k].adopted.listensTo j] s.streams[j]
  lawful : (view t).Lawful

namespace Left

variable {all done : List SeatNo}

theorem refl (all : List SeatNo) (h : (view s).Lawful) : Left all [] s s where
  state := rfl
  gone _ hk := by cases hk
  stays _ _ := rfl
  lists k _ := (List.filter_eq_self.2 fun a _ => decide_eq_true List.not_mem_nil).symm
  slots n := by
    cases s.slotMap[n] with
    | none => rfl
    | some k => exact (if_neg fun hk => List.not_mem_nil hk.1).symm
  streams _ := rfl
  lawful := h

theorem env (h : Left all done s t) : t.env = s.env := by
  rw [h.state]
  rfl

/-- The next seat of those that leave. -/
theorem next {rest : List SeatNo} (h : Left all done s t) (hall : all = done ++ k :: rest) (hsorted : all.Pairwise (· < ·)) :
    Left all (done ++ [k]) s (t.leaveService k) := by
  have hnodup : all.Nodup := hsorted.imp fun hlt => ne_of_lt hlt
  have hk : k ∉ done := fun hmem => by
    rw [hall] at hnodup
    exact (List.disjoint_of_nodup_append hnodup) hmem List.mem_cons_self
  have hbefore : ∀ a : SeatNo, a ∈ all ∧ a < k ↔ a ∈ done := fun a => by
    rw [hall] at hsorted ⊢
    obtain ⟨-, hrest, hacross⟩ := List.pairwise_append.1 hsorted
    refine ⟨fun ⟨hmem, hlt⟩ => ?_, fun hmem => ⟨List.mem_append_left _ hmem, hacross a hmem k List.mem_cons_self⟩⟩
    obtain hdone | hlater := List.mem_append.1 hmem
    · exact hdone
    · obtain rfl | hafter := List.mem_cons.1 hlater
      · exact absurd hlt (lt_irrefl a)
      · exact absurd hlt (lt_asymm ((List.pairwise_cons.1 hrest).1 a hafter))
  have hown := h.stays k hk
  have hrouting : t.seats[k].adopted.routing = s.seats[k].adopted.routing := by
    have hsame := congrArg (fun x : Seat => x.adopted.routing) hown
    exact hsame
  have htakes := leaveService_takes t k
  have hlist : t.seats[k].adopted.supervisors =
      s.seats[k].adopted.supervisors.filter fun a => decide (¬ (a.seat ∈ all ∧ a.seat < k)) := by
    rw [h.lists k hk]
    exact List.filter_congr fun a _ => by simp only [hbefore]
  have hnotices : leavingNotices all (done ++ [k]) s = leavingNotices all done s ++
      if t.seats[k].adopted.routing.mode.holdsSlot = true then detached k 1 t.seats[k].adopted.supervisors else [] := by
    rw [leavingNotices, List.flatMap_append, List.flatMap_singleton, hrouting, hlist]
    rfl
  have hmem : ∀ j, j ∈ done ++ [k] ↔ j ∈ done ∨ j = k := fun j => by simp
  refine ⟨?state, fun j hj => ?gone, fun j hj => ?stays, fun j hj => ?lists, fun n => ?slots, fun j => ?streams,
    leaveService_lawful k h.lawful⟩
  case state =>
    have hu := htakes.state
    have hio : t.io = handAll s.env (leavingNotices all done s) s.io := congrArg State.io h.state
    rw [h.env, hio, ← BusSide.handAll_append, ← hnotices] at hu
    generalize t.leaveService k = u at hu ⊢
    rw [h.state] at hu
    exact hu
  case gone =>
    obtain hdone | rfl := (hmem j).1 hj
    · have hother := htakes.others j fun heq => hk (heq ▸ hdone)
      have hblocks := congrArg Seat.blocks hother
      have hwaiting := congrArg Seat.waiting hother
      rw [hblocks, hwaiting]
      rw [h.gone j hdone] at hother
      exact hother
    · have hself := htakes.own
      rw [hown] at hself
      exact hself
  case stays =>
    obtain ⟨hdone, hne⟩ := not_or.1 (fun h => hj ((hmem j).2 h))
    have hother := htakes.others j hne
    rw [h.stays j hdone] at hother
    exact hother
  case lists =>
    obtain ⟨hdone, hne⟩ := not_or.1 (fun h => hj ((hmem j).2 h))
    rw [leaveService_list h.lawful, if_neg hne, h.lists j hdone, List.filter_filter]
    refine List.filter_congr fun a _ => ?_
    rw [Bool.eq_iff_iff, Bool.and_eq_true, decide_eq_true_eq, decide_eq_true_eq, decide_eq_true_eq, hmem, not_or, and_comm]
  case slots =>
    have hslot := h.slots n
    rw [leaveService_slotMap, hrouting]
    generalize t.slotMap[n] = x at hslot ⊢
    cases hs : s.slotMap[n] with
    | none =>
      rw [hs] at hslot
      rw [hslot]
      exact if_neg fun h => by cases h.2
    | some j =>
      rw [hs] at hslot
      dsimp only at hslot ⊢
      by_cases hdone : j ∈ done ∧ s.seats[j].adopted.routing.mode.holdsSlot = true
      · rw [if_pos hdone] at hslot
        refine (if_neg fun h => by cases hslot.symm.trans h.2).trans (hslot.trans (if_pos ?_).symm)
        exact ⟨(hmem j).2 (.inl hdone.1), hdone.2⟩
      · rw [if_neg hdone] at hslot
        subst hslot
        by_cases hjk : j = k ∧ s.seats[j].adopted.routing.mode.holdsSlot = true
        · obtain ⟨rfl, hcall⟩ := hjk
          rw [if_pos ⟨hcall, rfl⟩, if_pos ⟨(hmem j).2 (.inr rfl), hcall⟩]
        · have hother : ¬ (s.seats[k].adopted.routing.mode.holdsSlot = true ∧ some j = some k) := by
            rintro ⟨hcall, heq⟩
            obtain rfl := Option.some.inj heq
            exact hjk ⟨rfl, hcall⟩
          have hleft : ¬ (j ∈ done ++ [k] ∧ s.seats[j].adopted.routing.mode.holdsSlot = true) := fun ⟨hj, hcall⟩ =>
            ((hmem j).1 hj).elim (fun hd => hdone ⟨hd, hcall⟩) fun heq => hjk ⟨heq, hcall⟩
          rw [if_neg hother, if_neg hleft]
  case streams =>
    have hlistens : t.seats[k].adopted.listensTo j = s.seats[k].adopted.listensTo j := by
      rw [Settings.listensTo, hrouting]
      rfl
    rw [htakes.streams j, List.countP_append, List.countP_singleton, h.streams j]
    unfold hear
    rw [hlistens]
    cases s.seats[k].adopted.listensTo j
    · rfl
    · simp [Function.iterate_succ_apply']

theorem foldl {l : List SeatNo} (hsorted : all.Pairwise (· < ·)) (hall : all = done ++ l) (h : Left all done s t) :
    Left all all s (l.foldl State.leaveService t) := by
  induction l generalizing done t with
  | nil =>
    rw [List.append_nil] at hall
    exact hall ▸ hall ▸ h
  | cons k l ih => exact ih (by rw [hall, List.append_assoc, List.singleton_append]) (h.next hall hsorted)

end Left

theorem leavers_sorted (serving n : Nat) : (leavers serving n).Pairwise (· < ·) :=
  (List.pairwise_lt_finRange 32).sublist List.filter_sublist

theorem mem_leavers {serving n : Nat} : k ∈ leavers serving n ↔ n ≤ k.val ∧ k.val < serving := by
  simp [leavers]

theorem leavers_left (h : (view s).Lawful) (serving n : Nat) :
    Left (leavers serving n) (leavers serving n) s ((leavers serving n).foldl State.leaveService s) :=
  .foldl (leavers_sorted serving n) (List.nil_append _).symm (.refl _ h)

/-- Leaving service touches no port, no register and no header. -/
theorem foldl_leaveService_state (l : List SeatNo) (s : State) : l.foldl State.leaveService s = { s with
    seats := (l.foldl State.leaveService s).seats, streams := (l.foldl State.leaveService s).streams
    pool := (l.foldl State.leaveService s).pool, slotMap := (l.foldl State.leaveService s).slotMap
    io := (l.foldl State.leaveService s).io } := by
  induction l generalizing s with
  | nil => rfl
  | cons k l ih =>
    have hone := (leaveService_takes s k).state
    have hrest := ih (s.leaveService k)
    rw [List.foldl_cons]
    generalize l.foldl State.leaveService (s.leaveService k) = w at hrest ⊢
    rw [hone] at hrest
    exact hrest

/-- It leaves memory, and the bus turns. -/
theorem handAll_still (e : Env) (ns : List NoticeOut) (io : Io) :
    (handAll e ns io).mem = io.mem ∧ (handAll e ns io).turns = io.turns :=
  List.foldlRecOn ns _ (motive := fun x : Io => x.mem = io.mem ∧ x.turns = io.turns) ⟨rfl, rfl⟩ fun x hx n _ => by
    rw [hand_mem, hand_turns]
    exact hx

theorem foldl_leaveService_still (l : List SeatNo) (s : State) :
    (l.foldl State.leaveService s).io.mem = s.io.mem ∧ (l.foldl State.leaveService s).io.turns = s.io.turns :=
  List.foldlRecOn l State.leaveService (motive := fun x : State => x.io.mem = s.io.mem ∧ x.io.turns = s.io.turns)
    ⟨rfl, rfl⟩ fun x hx k _ => by
      have hio : (x.leaveService k).io = _ := congrArg State.io (leaveService_takes x k).state
      obtain ⟨hmem, hturns⟩ := handAll_still x.env _ x.io
      rw [hio]
      exact ⟨hmem.trans hx.1, hturns.trans hx.2⟩

/-! ## The header's fields -/

theorem takeHeader_adopts {h : HeaderRecord} (e : Word) (hlayout : h.layout = 1) :
    s.takeHeader e h = s.adoptHeader e h := if_pos hlayout

/-- The state that an adopted header leaves, as the seats that leave make it. -/
theorem adoptHeader_state (s : State) (e : Word) (h : HeaderRecord) : s.adoptHeader e h =
    { (leavers s.header.seats h.seats).foldl State.leaveService s with
      header := { edition := some e, layoutBad := false, adopted := true, seats := h.seats, serving := s.header.serving }
      sh := adoptSeatHighway (!s.header.adopted) h.sh s.sh, nh := adoptNetHighway h.nh s.nh
      tick := s.tick.adoptPeriod h.period } := by
  have hstate := foldl_leaveService_state (leavers s.header.seats h.seats) s
  have hheader := congrArg State.header hstate
  have hsh := congrArg State.sh hstate
  have hnh := congrArg State.nh hstate
  have htick := congrArg State.tick hstate
  dsimp only at hheader hsh hnh htick
  unfold State.adoptHeader
  dsimp only
  rw [hheader, hsh, hnh, htick]

theorem netBits_le (narrow check : Bool) : netBits narrow check ≤ 1056 := by
  cases narrow <;> cases check <;> decide

/-- The fields in their ranges (R157, R195, Table 10-3). -/
theorem parseHeader_inRange (ws : List Word) :
    let h := parseHeader ws
    1 ≤ h.seats ∧ h.seats ≤ 32 ∧ 1 ≤ h.sh.div ∧ h.sh.div ≤ 255 ∧ 1024 ≤ h.sh.len ∧ h.sh.len ≤ 4096 ∧
      1 ≤ h.nh.divider.div ∧ h.nh.divider.div ≤ 255 ∧ netBits h.nh.narrow h.nh.check ≤ h.nh.divider.len ∧
      h.nh.divider.len ≤ 4096 ∧ (h.period = 0 ∨ 20 ≤ h.period ∧ h.period ≤ 4000) := by
  intro h
  have hseats := SeatLaws.clamp_bounds (lo := 1) (hi := 32) (by omega) (wordAt ws 1).toNat
  have hdiv (n : Nat) := SeatLaws.clamp_bounds (lo := 1) (hi := 255) (by omega) n
  have hlen (n : Nat) := SeatLaws.clamp_bounds (lo := 256) (hi := 4096) (by omega) n
  refine ⟨hseats.1, hseats.2, (hdiv _).1, (hdiv _).2, Nat.le_max_left .., Nat.max_le.2 ⟨by omega, (hlen _).2⟩,
    (hdiv _).1, (hdiv _).2, Nat.le_max_left .., Nat.max_le.2 ⟨(netBits_le ..).trans (by omega), (hlen _).2⟩, ?_⟩
  show clampPeriod _ = 0 ∨ 20 ≤ clampPeriod _ ∧ clampPeriod _ ≤ 4000
  unfold clampPeriod
  split
  · exact .inl rfl
  · exact .inr (SeatLaws.clamp_bounds (by omega) _)

theorem restart_iff {a b : Bool} {P : Prop} [Decidable P] :
    (a || (!b) || decide P) = true ↔ a = true ∨ b = false ∨ P := by
  cases a <;> cases b <;> simp

theorem restart_iff' {a : Bool} {P : Prop} [Decidable P] : (a || decide P) = true ↔ a = true ∨ P := by simp

/-! ## The scan with no bus turns (R179) -/

/-- A record's edition word as the scan finds it. -/
def changedWord (s : State) (a : Nat) (held : Option Word) : Option Word :=
  if held = some (readMemWord a s.io.mem) then none else some (readMemWord a s.io.mem)

theorem readEdition_still' (h : s.io.turns = []) (src : Source) (a : Nat) (held : Option Word) :
    readEdition s.env src a held s.io = (changedWord s a held, s.io) := by
  rw [readEdition_still h, changedWord]
  exact congrArg (·, s.io) (if_congr eq_comm rfl rfl)

theorem scanHeader_eq (h : s.io.turns = []) :
    s.scanHeader = s.readHeader (changedWord s (headerEditionAt s) s.header.edition) := by
  unfold State.scanHeader
  rw [readEdition_still' h]
  rfl

theorem scanHeader_same (h : s.io.turns = []) (hsame : s.header.edition = some (readMemWord (headerEditionAt s) s.io.mem)) :
    s.scanHeader = s := by
  rw [scanHeader_eq h, changedWord, if_pos hsame]
  rfl

theorem scanHeader_changed (h : s.io.turns = [])
    (hchanged : s.header.edition ≠ some (readMemWord (headerEditionAt s) s.io.mem)) :
    s.scanHeader = s.takeHeader (readMemWord (headerEditionAt s) s.io.mem)
      (parseHeader ((headerWords s.area.toNat).map fun a => readMemWord a s.io.mem)) := by
  rw [scanHeader_eq h, changedWord, if_neg hchanged]
  unfold State.readHeader
  dsimp only
  rw [readWhole_still h, if_pos rfl]
  rfl

theorem readSeatEditions_still (h : s.io.turns = []) (l : List SeatNo) (acc : List (SeatNo × Option Word)) :
    l.foldl seatEdition (acc, s) =
      (acc ++ l.map fun k => (k, changedWord s (seatBlockAt s.area.toNat k) s.seats[k].edition), s) := by
  have hset : s.setIo s.io = s := rfl
  induction l generalizing acc with
  | nil => rw [List.map_nil, List.append_nil]; rfl
  | cons k l ih =>
    rw [List.foldl_cons, seatEdition]
    dsimp only
    rw [readEdition_still' h, hset, ih, List.append_assoc]
    rfl

theorem readStreamEditions_still (h : s.io.turns = []) (l : List StreamNo) (acc : List (StreamNo × Option Word)) :
    l.foldl streamEdition (acc, s) =
      (acc ++ l.map fun j => (j, changedWord s (streamAt s.area.toNat j) s.streams[j].edition), s) := by
  have hset : s.setIo s.io = s := rfl
  induction l generalizing acc with
  | nil => rw [List.map_nil, List.append_nil]; rfl
  | cons k l ih =>
    rw [List.foldl_cons, streamEdition]
    dsimp only
    rw [readEdition_still' h, hset, ih, List.append_assoc]
    rfl

theorem takeHeader_still (s : State) (e : Word) (h : HeaderRecord) :
    (s.takeHeader e h).io.mem = s.io.mem ∧ (s.takeHeader e h).io.turns = s.io.turns ∧ (s.takeHeader e h).area = s.area := by
  have harea := (takeHeader_keeps (lo := 0) (hi := 0) s e h).area
  refine ⟨?_, ?_, harea⟩ <;> unfold State.takeHeader <;> split
  · rw [adoptHeader_state]
    exact (foldl_leaveService_still ..).1
  · rfl
  · rw [adoptHeader_state]
    exact (foldl_leaveService_still ..).2
  · rfl

theorem scanHeader_leaves (h : s.io.turns = []) :
    s.scanHeader.io.mem = s.io.mem ∧ s.scanHeader.io.turns = [] ∧ s.scanHeader.area = s.area := by
  by_cases hsame : s.header.edition = some (readMemWord (headerEditionAt s) s.io.mem)
  · rw [scanHeader_same h hsame]
    exact ⟨rfl, h, rfl⟩
  · rw [scanHeader_changed h hsame]
    obtain ⟨hmem, hturns, harea⟩ := takeHeader_still s _ _
    exact ⟨hmem, hturns.trans h, harea⟩

theorem idleDue_eq (old : Settings) (d : Due) : idleDue old d = { d with
    clearKeyMute := true, reminder := if old.routing.mode = .hold then some false else d.reminder } := by
  unfold idleDue
  split <;> rfl

theorem flatMap_filter {α β : Type} (p : α → Bool) (f : α → List β) (l : List α) :
    (l.filter p).flatMap f = l.flatMap fun a => if p a = true then f a else [] := by
  induction l with
  | nil => rfl
  | cons a l ih =>
    rw [List.filter_cons, List.flatMap_cons, ← ih]
    split <;> rfl

/-- The notices as the scan of all seats gives them. -/
theorem leavingNotices_eq (serving n : Nat) (s : State) :
    leavingNotices (leavers serving n) (leavers serving n) s = (List.finRange 32).flatMap fun k =>
      if (n ≤ k.val ∧ k.val < serving) ∧ s.seats[k].adopted.routing.mode.holdsSlot = true then
        detached k 1 (s.seats[k].adopted.supervisors.filter fun a =>
          decide (¬ ((n ≤ a.seat.val ∧ a.seat.val < serving) ∧ a.seat < k)))
      else [] := by
  simp only [leavingNotices, mem_leavers]
  rw [leavers, flatMap_filter]
  refine List.flatMap_congr fun k _ => ?_
  by_cases hk : n ≤ k.val ∧ k.val < serving
  · simp [hk]
  · rw [if_neg (by simpa using hk), if_neg fun h => hk h.1]

/-- A seat that has left service, in full: the laws empty its lists and its tail. -/
theorem Left.gone_eq {all done : List SeatNo} (h : Left all done s t) (htail : t.tailOk) (hk : k ∈ done) :
    t.seats[k] = { s.seats[k] with
      edition := none, blocks := [], waiting := false
      adopted := { s.seats[k].adopted with
        routing := { s.seats[k].adopted.routing with mode := .idle }, attachedTo := none, supervisors := [] }
      due := idleDue s.seats[k].adopted s.seats[k].due, prompt := s.seats[k].prompt.markAll .abandoned } := by
  have hgone := h.gone k hk
  have hmode : t.seats[k].adopted.routing.mode = .idle := by
    have hsame := congrArg (fun x : Seat => x.adopted.routing.mode) hgone
    exact hsame
  have htarget : t.seats[k].adopted.attachedTo = none :=
    h.lawful.linked.target_eq_none (k := k) (by show t.seats[k].adopted.routing.mode ≠ _; rw [hmode]; decide)
  have hlist : t.seats[k].adopted.supervisors = [] :=
    h.lawful.linked.list_eq_nil (k := k) (by show t.seats[k].adopted.routing.mode.holdsSlot = _; rw [hmode]; rfl)
  have hruns : t.seats[k].adopted.runsEcho = false := by rw [Settings.runsEcho, hmode]; rfl
  obtain ⟨hheld, hwaits, -⟩ := htail k
  have hblocks : t.seats[k].blocks = [] := not_not.1 fun hne => Bool.false_ne_true (hruns.symm.trans (hheld hne))
  have hwaiting : t.seats[k].waiting = false :=
    Bool.eq_false_iff.2 fun hyes => Bool.false_ne_true (hruns.symm.trans (hwaits hyes).1)
  rw [hblocks, hwaiting, attachedAs, htarget, hlist] at hgone
  exact hgone

/-- Settles O55: the seats that leave are taken one after another in number order, and quiet reads find each word as it stands. -/
theorem headerTakenOrRefused : Obligations.HeaderTakenOrRefused := by
  unfold Obligations.HeaderTakenOrRefused
  refine ⟨fun s e w00 w08 w0C w10 w14 w18 w1C w20 => ?fields, fun s e h hlayout hattached htail => ?leaves,
    fun s hturns => ?scan⟩
  case fields =>
    intro h low div width need
    refine ⟨fun hlayout => if_neg hlayout, fun hlayout => ?adopted, parseHeader_inRange _⟩
    case adopted =>
      intro t
      have ht : t = _ := (takeHeader_adopts e (h := h) hlayout).trans (adoptHeader_state s e h)
      rw [ht]
      refine ⟨rfl, rfl, rfl, rfl, rfl, ?_, rfl, ?_, rfl, ?_, ?_⟩
      · show clampDivider (low w0C) (w0C.getLsbD 16) (low w10) 1024 = _
        unfold clampDivider clamp
        rw [← max_assoc, max_eq_left (by omega : (256 : Nat) ≤ 1024)]
      · show clampPeriod w20.toNat = _
        have hzero : w20.toNat = 0 ↔ w20 = 0 := by rw [← BitVec.toNat_inj]; rfl
        exact if_congr hzero rfl rfl
      · exact restart_iff
      · exact restart_iff'
  case leaves =>
    intro t leaves old
    have hlawful := (attachmentsOk_iff s).1 hattached
    have hleft := leavers_left hlawful s.header.seats h.seats
    have hwent := (takeHeader_adopts (s := s) e hlayout).trans (adoptHeader_state s e h)
    have hupholds : TailPool.Upholds s t := TailPool.takeHeader_upholds s e h
    have htails : t.tailOk := hupholds.tail htail
    have hslotted : s.slotsOk → t.slotsOk := SlotLaw.takeHeader_slotsOk e h
    have hheard : s.listenersOk → t.listenersOk := Listeners.listenersOk_law.takeHeader e h
    have ht : t = _ := hwent
    clear_value t
    have hio := leavingNotices_eq s.header.seats h.seats s
    have hcount := fun j : StreamNo => List.countP_filter (p := fun k => s.seats[k].adopted.listensTo j)
      (q := fun k : SeatNo => decide (h.seats ≤ k.val) && decide (k.val < s.header.seats)) (l := List.finRange 32)
    have hmem : ∀ k, k ∈ leavers s.header.seats h.seats ↔ leaves k := fun k => mem_leavers
    generalize hall : leavers s.header.seats h.seats = all at hleft hio hmem ht
    generalize all.foldl State.leaveService s = u at hleft ht
    subst ht
    have hseat := fun k (hk : leaves k) => hleft.gone_eq htails ((hmem k).2 hk)
    obtain ⟨hstate, -, hstays, -, hslots, hstreams, hview⟩ := hleft
    refine ⟨?state, fun k hk => ?gone, fun k hk => hstays k fun hin => hk ((hmem k).1 hin), ?attached, htails,
      hupholds.pool, hslotted, hheard, fun n => ?slot, fun j => ?stream, ?io⟩
    case state =>
      rw [hstate]
      rfl
    case gone =>
      have hk := hseat k hk
      rw [idleDue_eq] at hk
      exact hk
    case attached =>
      have htick : u.tick = s.tick := by rw [hstate]
      obtain ⟨hlinked, halone, hgoverned⟩ := hview
      refine (attachmentsOk_iff _).2 ⟨hlinked.congr rfl rfl rfl, fun hyes => halone ?_, fun hyes hrunning hone => hgoverned ?_ hrunning ?_⟩
      · exact (congrArg TickMonitor.standalone htick).trans hyes
      · exact (congrArg TickMonitor.standalone htick).trans hyes
      · exact hone.trans_eq (congrArg TickMonitor.aloneFrames htick).symm
    case slot =>
      refine (hslots n).trans ?_
      cases s.slotMap[n] with
      | none => rfl
      | some k => exact if_congr (and_congr_left' (hmem k)) rfl rfl
    case stream =>
      refine (hstreams j).trans (congrArg (fun m => leaveStream^[m] s.streams[j]) ?_)
      rw [← hall]
      refine (hcount j).trans (List.countP_congr fun k _ => ?_)
      rw [Bool.and_eq_true, Bool.and_eq_true, Bool.and_eq_true, and_comm, decide_eq_true_eq, decide_eq_true_eq]
      exact and_congr_left' decide_eq_true_iff.symm
    case io =>
      have hhanded := congrArg State.io hstate
      exact hhanded.trans (congrArg (handAll s.env · s.io) hio)
  case scan =>
    intro word changed t
    obtain ⟨hmem, hquiet, harea⟩ := scanHeader_leaves hturns
    refine ⟨fun hsame => ?_, fun hdiffers => ?_, fun hbad => ?_, fun hgood => ?_⟩
    · refine scanHeader_same hturns (not_not.1 fun hne => ?_)
      exact Option.some_ne_none _ ((if_neg hne).symm.trans hsame)
    · exact scanHeader_changed hturns fun hsame => hdiffers (if_pos hsame)
    · have hscan : s.adoptionScan = t.retries := if_pos hbad
      rw [hscan, State.retries, Expiry.scanned_eq]
    · have hscan : s.adoptionScan = (readStreamEditions (readSeatEditions t).2).1.foldl streamPlace
          ((readSeatEditions t).1.foldl seatPlace (readStreamEditions (readSeatEditions t).2).2) :=
        if_neg (by rw [hgood]; decide)
      rw [hscan, readSeatEditions, readSeatEditions_still (s := t) hquiet, readStreamEditions,
        readStreamEditions_still (s := t) hquiet,
        Expiry.scanned_eq]
      have hseat (k : SeatNo) (held : Option Word) : changedWord t (seatBlockAt t.area.toNat k) held =
          changed (0x1000 + 128 * k.val) held := by
        rw [changedWord, hmem, seatBlockAt, harea, Nat.add_assoc]
      have hstream (j : StreamNo) (held : Option Word) : changedWord t (streamAt t.area.toNat j) held =
          changed (0x400 + 32 * j.val) held := by
        rw [changedWord, hmem, streamAt, harea, Nat.add_assoc]
      simp only [List.nil_append, hseat, hstream]

end Sys2Proof.Headers
end

section
/-! The words of the reports, as numbers (O52).  A packed word whose fields do not overlap is the sum of its fields (`toNat_pack`). -/

namespace Sys2Proof.ReportWords

open Sys2Proof.Machine Sys2Proof.Laws Sys2Proof.Registers

/-! ## Packed words as numbers -/

/-- Fields that lie one above another, above the number `a` and within 32 bits. -/
def stacked : Nat → List (Nat × Nat) → Prop
  | _, [] => True
  | a, f :: fs => a < 2 ^ f.1 ∧ a + 2 ^ f.1 * f.2 < 2 ^ 32 ∧ stacked (a + 2 ^ f.1 * f.2) fs

theorem toNat_or_field {w : Word} {p v : Nat} (hw : w.toNat < 2 ^ p) (hv : w.toNat + 2 ^ p * v < 2 ^ 32) :
    (w ||| (BitVec.ofNat 32 v <<< p)).toNat = w.toNat + 2 ^ p * v := by
  have hlt : 2 ^ p * v < 2 ^ 32 := Nat.lt_of_le_of_lt (Nat.le_add_left ..) hv
  have hshift : (BitVec.ofNat 32 v <<< p).toNat = 2 ^ p * v := by
    rw [BitVec.toNat_shiftLeft, BitVec.toNat_ofNat, Nat.shiftLeft_eq, Nat.mod_mul_mod, Nat.mul_comm v, Nat.mod_eq_of_lt hlt]
  rw [BitVec.toNat_or, hshift, Nat.or_comm, ← Nat.two_pow_add_eq_or_of_lt hw, Nat.add_comm]

theorem toNat_foldl_pack {fs : List (Nat × Nat)} {w : Word} (h : stacked w.toNat fs) :
    (fs.foldl (fun w f => w ||| (BitVec.ofNat 32 f.2 <<< f.1)) w).toNat =
      w.toNat + (fs.map fun f => 2 ^ f.1 * f.2).sum := by
  induction fs generalizing w with
  | nil => rfl
  | cons f fs ih =>
    obtain ⟨hw, hv, hrest⟩ := h
    rw [← toNat_or_field hw hv] at hrest
    rw [List.foldl_cons, ih hrest, toNat_or_field hw hv, List.map_cons, List.sum_cons, Nat.add_assoc]

theorem toNat_pack {fs : List (Nat × Nat)} (h : stacked 0 fs) : (pack fs).toNat = (fs.map fun f => 2 ^ f.1 * f.2).sum :=
  (toNat_foldl_pack (w := 0) h).trans (Nat.zero_add _)

theorem field_eq (w : Word) (lo len : Nat) : field w lo len = w.toNat / 2 ^ lo % 2 ^ len := by
  rw [field, BitVec.extractLsb'_toNat, Nat.shiftRight_eq_div_pow]

theorem getLsbD_eq (w : Word) (i : Nat) : w.getLsbD i = decide (w.toNat / 2 ^ i % 2 = 1) :=
  Nat.testBit_eq_decide_div_mod_eq

theorem clamp_self {lo hi n : Nat} (hlo : lo ≤ n) (hhi : n ≤ hi) : clamp lo hi n = n := by
  unfold clamp
  omega

theorem pack_single (n : Nat) : pack [(0, n)] = BitVec.ofNat 32 n := by
  rw [pack, List.foldl_cons, List.foldl_nil]
  simp

section
variable {a b c d : Nat}

theorem toNat_halves (ha : a < 65536) (hb : b < 65536) : (pack [(0, a), (16, b)]).toNat = a + 65536 * b := by
  rw [toNat_pack]
  · simp only [List.map_cons, List.map_nil, List.sum_cons, List.sum_nil]
    omega
  · simp only [stacked, and_true]
    omega

theorem fields_halves (ha : a < 65536) (hb : b < 65536) :
    field (pack [(0, a), (16, b)]) 0 16 = a ∧ field (pack [(0, a), (16, b)]) 16 16 = b := by
  rw [field_eq, field_eq, toNat_halves ha hb]
  omega

theorem field_single {n len : Nat} (hlen : n < 2 ^ len) (hn : n < 4294967296) : field (pack [(0, n)]) 0 len = n := by
  rw [field_eq, pack_single, BitVec.toNat_ofNat, Nat.mod_eq_of_lt hn, Nat.pow_zero, Nat.div_one, Nat.mod_eq_of_lt hlen]

theorem toNat_bytes (ha : a < 256) (hb : b < 256) (hc : c < 256) (hd : d < 256) :
    (pack [(0, a), (8, b), (16, c), (24, d)]).toNat = a + 256 * b + 65536 * c + 16777216 * d := by
  rw [toNat_pack]
  · simp only [List.map_cons, List.map_nil, List.sum_cons, List.sum_nil]
    omega
  · simp only [stacked, and_true]
    omega

theorem fields_bytes (ha : a < 256) (hb : b < 256) (hc : c < 256) (hd : d < 256) :
    let w := pack [(0, a), (8, b), (16, c), (24, d)]
    field w 0 8 = a ∧ field w 8 8 = b ∧ field w 16 8 = c ∧ field w 24 8 = d ∧ w.getLsbD 0 = decide (a % 2 = 1) := by
  intro w
  have hw : w.toNat = _ := toNat_bytes ha hb hc hd
  rw [field_eq, field_eq, field_eq, field_eq, getLsbD_eq, hw]
  refine ⟨by omega, by omega, by omega, by omega, decide_eq_decide.2 (by omega)⟩

end

theorem flag_odd (b : Bool) : decide (flagNat b % 2 = 1) = b := by cases b <;> rfl

theorem flagNat_lt (b : Bool) : flagNat b < 2 := Nat.lt_succ_of_le (flagNat_le b)

/-! ## The settings words -/

theorem parseLevels_levelWords {l : Levels} (h : l.inRange) :
    ∃ a b x d, levelWords l = [a, b, x, d] ∧ parseLevels a b x d = l := by
  obtain ⟨hmic, hcust, hside, hwhisper, hhold, hlisten, hbarge, hduck⟩ := h
  refine ⟨_, _, _, _, rfl, ?_⟩
  obtain ⟨ha, hb⟩ := fields_halves (a := l.mic) (b := l.cust) (by omega) (by omega)
  obtain ⟨hc, hd⟩ := fields_halves (a := l.side) (b := l.whisper) (by omega) (by omega)
  obtain ⟨he, hf⟩ := fields_halves (a := l.hold) (b := l.listen) (by omega) (by omega)
  obtain ⟨hg, hh⟩ := fields_halves (a := l.barge) (b := l.duck) (by omega) (by omega)
  simp only [parseLevels, ha, hb, hc, hd, he, hf, hg, hh, clamp_self (Nat.zero_le _) hmic, clamp_self (Nat.zero_le _) hcust,
    clamp_self (Nat.zero_le _) hside, clamp_self (Nat.zero_le _) hwhisper, clamp_self (Nat.zero_le _) hhold,
    clamp_self (Nat.zero_le _) hlisten, clamp_self (Nat.zero_le _) hbarge, clamp_self (Nat.zero_le _) hduck]

/-- The two gains of a word. -/
theorem parseGains_gainWord {t : Vector Nat 8} (h : ∀ i : Fin 8, t[i] ≤ 16384) (i j : Fin 8) :
    parseGains (gainWord t i j) = [t[i], t[j]] := by
  have hi := h i
  have hj := h j
  obtain ⟨ha, hb⟩ := fields_halves (a := t[i]) (b := t[j]) (by omega) (by omega)
  rw [parseGains, gainWord, ha, hb, clamp_self (Nat.zero_le _) hi, clamp_self (Nat.zero_le _) hj]

theorem parseNoise_noiseWords {n : Noise} (h : n.inRange) :
    ∃ a b x d e f, noiseWords n = [a, b, x, d, e, f] ∧ parseNoise a b x d e f = n := by
  obtain ⟨hgains, ⟨hshift, hshift'⟩, ⟨hstep, hstep'⟩, ⟨hband, hband'⟩, hover⟩ := h
  refine ⟨_, _, _, _, _, _, rfl, ?_⟩
  have hflag := flagNat_lt n.enable
  obtain ⟨-, hb, hc, hd, ha⟩ := fields_bytes (a := flagNat n.enable) (b := n.floorRiseShift) (c := n.vadBand)
    (d := n.vadHangover) (by omega) (by omega) (by omega) (by omega)
  have he := field_single (n := n.releaseStep) (len := 16) (by omega) (by omega)
  have htable : (tabulate fun i : Fin 8 => ([n.gainTable[0], n.gainTable[1]] ++ [n.gainTable[2], n.gainTable[3]] ++
      [n.gainTable[4], n.gainTable[5]] ++ [n.gainTable[6], n.gainTable[7]]).getD i.val 0) = n.gainTable := by
    refine Vector.ext fun i hi => ?_
    rw [show (tabulate _)[i] = _ from tabulate_get _ (⟨i, hi⟩ : Fin 8)]
    interval_cases i <;> rfl
  simp only [parseNoise, parseGains_gainWord hgains, ha, hb, hc, hd, he, flag_odd, clamp_self hshift hshift',
    clamp_self hband hband', clamp_self (Nat.zero_le _) hover, clamp_self hstep hstep']
  exact congrArg (fun t => { n with gainTable := t }) htable

theorem parseCadence_cadenceWords {y : Cadence} (h : y.inRange) :
    ∃ a b x, cadenceWords y = [a, b, x] ∧ parseCadence a b x = y ∧ a.getLsbD 2 = false := by
  obtain ⟨⟨hhalf, hhalf'⟩, hamplitude, ⟨hon, hon'⟩, hoff⟩ := h
  refine ⟨_, _, _, rfl, ?_⟩
  have hr := flagNat_lt y.reminderEnable
  have hs := flagNat_lt y.single
  have hword : (pack [(0, flagNat y.reminderEnable), (1, flagNat y.single), (8, y.halfPeriod)]).toNat =
      flagNat y.reminderEnable + 2 * flagNat y.single + 256 * y.halfPeriod := by
    rw [toNat_pack]
    · simp only [List.map_cons, List.map_nil, List.sum_cons, List.sum_nil]
      omega
    · simp only [stacked, and_true]
      omega
  have ha : decide ((flagNat y.reminderEnable + 2 * flagNat y.single + 256 * y.halfPeriod) / 2 ^ 0 % 2 = 1) =
      y.reminderEnable := (decide_eq_decide.2 (by omega)).trans (flag_odd _)
  have hb : decide ((flagNat y.reminderEnable + 2 * flagNat y.single + 256 * y.halfPeriod) / 2 ^ 1 % 2 = 1) = y.single :=
    (decide_eq_decide.2 (by omega)).trans (flag_odd _)
  have hc : (flagNat y.reminderEnable + 2 * flagNat y.single + 256 * y.halfPeriod) / 2 ^ 8 % 2 ^ 8 = y.halfPeriod := by omega
  obtain ⟨hd, he⟩ := fields_halves (a := y.amplitude) (b := y.onFrames) (by omega) (by omega)
  have hf := field_single (n := y.offFrames) (len := 16) (by omega) (by omega)
  refine ⟨?_, ?_⟩
  · simp only [parseCadence, getLsbD_eq, field_eq _ 8, hword, ha, hb, hc, hd, he, hf, clamp_self hhalf hhalf',
      clamp_self (Nat.zero_le _) hamplitude, clamp_self hon hon', clamp_self (Nat.zero_le _) hoff]
  · rw [getLsbD_eq, hword]
    exact decide_eq_false (by omega)

theorem parseEcho_echoWords {e : Echo} (h : e.inRange) : ∃ a b x d, echoWords e = [a, b, x, d] ∧
    parseEcho (pack [(0, flagNat e.enable), (1, flagNat e.hostFreeze)]) a b x d = e := by
  obtain ⟨⟨hfloor, hfloor', hrequest⟩, hdelay, ⟨hstep, hstep'⟩, ⟨hratio, hratio'⟩, hover, hreference, hresidual⟩ := h
  refine ⟨_, _, _, _, rfl, ?_⟩
  have hs := flagNat_lt e.enable
  have hz := flagNat_lt e.hostFreeze
  have hword : (pack [(0, flagNat e.enable), (1, flagNat e.hostFreeze)]).toNat =
      flagNat e.enable + 2 * flagNat e.hostFreeze := by
    rw [toNat_pack]
    · simp only [List.map_cons, List.map_nil, List.sum_cons, List.sum_nil]
      omega
    · simp only [stacked, and_true]
      omega
  have henable : decide ((flagNat e.enable + 2 * flagNat e.hostFreeze) / 2 ^ 0 % 2 = 1) = e.enable :=
    (decide_eq_decide.2 (by omega)).trans (flag_odd _)
  have hfreeze : decide ((flagNat e.enable + 2 * flagNat e.hostFreeze) / 2 ^ 1 % 2 = 1) = e.hostFreeze :=
    (decide_eq_decide.2 (by omega)).trans (flag_odd _)
  obtain ⟨ha, hb, hc, hd, -⟩ := fields_bytes (a := e.tailRequest) (b := e.tailFloor) (c := e.stepShift)
    (d := e.talkRatioShift) (by omega) (by omega) (by omega) (by omega)
  obtain ⟨hf, -⟩ := fields_halves (a := e.bulkDelay) (b := e.talkHangover) (by omega) (by omega)
  have hg : field (pack [(0, e.bulkDelay), (16, e.talkHangover)]) 16 8 = e.talkHangover := by
    rw [field_eq, toNat_halves (by omega) (by omega)]
    omega
  have hh := field_single (n := e.residualGain) (len := 16) (by omega) (by omega)
  have hi : (pack [(0, e.referenceFloor)]).toNat = e.referenceFloor := by
    rw [pack_single, BitVec.toNat_ofNat, Nat.mod_eq_of_lt (by omega)]
  simp only [parseEcho, getLsbD_eq, hword, henable, hfreeze, ha, hb, hc, hd, hf, hg, hh, hi, clamp_self hstep hstep',
    clamp_self hratio hratio', clamp_self (Nat.zero_le _) hover, clamp_self (Nat.zero_le _) hresidual,
    clamp_self (Nat.zero_le _) hreference]

/-! ## The first words of a seat report -/

/-- A flag's share of a word. -/
theorem flag_share (b : Bool) (n : Nat) : (if b = true then 2 ^ n else 0) = 2 ^ n * flagNat b := by
  cases b <;> simp [flagNat]

theorem seatOrNone_eq (k : Option SeatNo) : seatOrNone k = (k.map fun j => j.val).getD 255 := by cases k <;> rfl

theorem seatOrNone_lt (k : Option SeatNo) : seatOrNone k < 256 := by
  cases k with
  | none => decide
  | some k => exact Nat.lt_of_lt_of_le k.isLt (by decide)

theorem toNat_reportFlags {x : Seat} (hblocks : x.blocks.length ≤ 255) (hband : x.suppressor.band ≤ 7) :
    (reportFlags x).toNat = x.canceller.state.encode + 2 ^ 4 * flagNat x.canceller.reasons.doubleTalk +
      2 ^ 5 * flagNat x.canceller.reasons.hostFreeze + 2 ^ 6 * flagNat x.canceller.reasons.lowReference +
      2 ^ 7 * flagNat x.canceller.reasons.networkFault + 256 * x.blocks.length + 65536 * x.suppressor.band +
      2 ^ 19 * flagNat x.suppressor.voice + 2 ^ 20 * flagNat x.status.present + 2 ^ 21 * flagNat x.status.muteKey +
      2 ^ 22 * flagNat x.status.talkKey + 2 ^ 23 * flagNat x.keyMute + 2 ^ 24 * flagNat x.arbiter.active +
      2 ^ 31 * flagNat x.edition.isSome := by
  have hstate : x.canceller.state.encode < 4 := by cases x.canceller.state <;> decide
  have h0 := flagNat_lt x.canceller.reasons.doubleTalk
  have h1 := flagNat_lt x.canceller.reasons.hostFreeze
  have h2 := flagNat_lt x.canceller.reasons.lowReference
  have h3 := flagNat_lt x.canceller.reasons.networkFault
  have h4 := flagNat_lt x.suppressor.voice
  have h5 := flagNat_lt x.status.present
  have h6 := flagNat_lt x.status.muteKey
  have h7 := flagNat_lt x.status.talkKey
  have h8 := flagNat_lt x.keyMute
  have h9 := flagNat_lt x.arbiter.active
  have h10 := flagNat_lt x.edition.isSome
  rw [reportFlags, toNat_pack]
  · simp only [List.map_cons, List.map_nil, List.sum_cons, List.sum_nil]
    omega
  · simp only [stacked, and_true]
    omega

/-- The first cell's number and shown state, as word 0Ch has them. -/
def firstCell (x : Seat) : Nat :=
  match x.prompt.order.head? with
  | none => 15
  | some q => q.cell.val + 256 * q.expected.encode

theorem toNat_reportCells (x : Seat) (phase : Phase) (fallback : Bool) : (reportCells x phase fallback).toNat =
    firstCell x + 65536 * phase.encode + 2 ^ 18 * flagNat fallback := by
  have hphase : phase.encode < 4 := by cases phase <;> decide
  have hflag := flagNat_lt fallback
  unfold reportCells firstCell
  cases x.prompt.order.head? with
  | none =>
    rw [toNat_pack]
    · simp only [List.map_cons, List.map_nil, List.sum_cons, List.sum_nil]
      omega
    · simp only [stacked, and_true]
      omega
  | some q =>
    have hcell := q.cell.isLt
    have hstate : q.expected.encode < 8 := by cases q.expected <;> decide
    dsimp only
    rw [toNat_pack]
    · simp only [List.map_cons, List.map_nil, List.sum_cons, List.sum_nil]
      omega
    · simp only [stacked, and_true]
      omega

/-- Settles O52: each word is the sum of its fields, and each field is read where it is written. -/
theorem settingsWordsRoundTrip : Obligations.SettingsWordsRoundTrip := by
  unfold Obligations.SettingsWordsRoundTrip
  refine ⟨fun l hl => parseLevels_levelWords hl, fun n hn => parseNoise_noiseWords hn,
    fun y hy => parseCadence_cadenceWords hy, fun e he => parseEcho_echoWords he,
    fun frame x phase fallback hblocks hband => ?seat, fun frame st => ?stream⟩
  case seat =>
    intro r g bit number mode state first sounding held
    refine ⟨rfl, rfl, ?modes, ?flags, ?cells, ?rest⟩
    case modes =>
      have hmode : g.routing.mode.encode < 256 := by cases g.routing.mode <;> decide
      have hget : r.getD 1 0 = pack [(0, g.routing.mode.encode), (8, seatOrNone g.attachedTo),
          (16, seatOrNone (g.supervisors.map Attachment.seat)[0]?),
          (24, seatOrNone (g.supervisors.map Attachment.seat)[1]?)] := rfl
      have henc : mode = g.routing.mode.encode := by unfold mode; cases g.routing.mode <;> rfl
      rw [hget, toNat_bytes hmode (seatOrNone_lt _) (seatOrNone_lt _) (seatOrNone_lt _), seatOrNone_eq, seatOrNone_eq,
        seatOrNone_eq, List.getElem?_map, List.getElem?_map, henc]
    case flags =>
      have hget : r.getD 2 0 = reportFlags x := rfl
      have hstate : state = x.canceller.state.encode := by unfold state; cases x.canceller.state <;> rfl
      have hbit (b : Bool) (n : Nat) : bit b n = 2 ^ n * flagNat b := flag_share b n
      rw [hget, toNat_reportFlags hblocks hband]
      simp only [hbit, hstate, held]
    case cells =>
      have hget : r.getD 3 0 = reportCells x phase fallback := rfl
      have hbit (b : Bool) (n : Nat) : bit b n = 2 ^ n * flagNat b := flag_share b n
      have hfirst : first = firstCell x := by
        unfold first firstCell
        cases x.prompt.order.head? with
        | none => rfl
        | some q => cases q.expected <;> rfl
      have hphase : sounding = phase.encode := by unfold sounding; cases phase <;> rfl
      rw [hget, toNat_reportCells, hbit, hfirst, hphase]
    case rest =>
      have hfreeze : pack [(1, flagNat x.adopted.echo.hostFreeze)] = if x.adopted.echo.hostFreeze = true then 2 else 0 := by
        cases x.adopted.echo.hostFreeze <;> rfl
      rw [← hfreeze]
      rfl
  case stream =>
    intro state segment
    have hstate : state = st.state.encode := by unfold state; cases st.state <;> rfl
    have hmark : pack [(0, flagNat st.edition.isSome)] = if st.edition = none then 0 else 1 := by
      cases st.edition with
      | none => rfl
      | some w => exact (pack_single 1).trans (if_neg (Option.some_ne_none w)).symm
    have hsegment (g : Segment) : segment g = g.encode := by unfold segment; cases g <;> rfl
    simp only [streamReport, hmark, hstate, hsegment, pack_single st.state.encode, pack_single st.segmentNow,
      pack_single st.cursorNow, pack_single st.listeners]
    unfold Stream.segmentNow Stream.cursorNow
    cases st.position with
    | none => rfl
    | some p => cases p <;> rfl

end Sys2Proof.ReportWords
end

section
/-! Record writes that meet no host write: which words are then in memory, with words that the window refuses left out on a
bus without turns, and with words that fail left out when the window takes them all. -/

namespace Sys2Proof.RecordWrites

open Sys2Proof.Machine Sys2Proof.Laws Sys2Proof.BusSide Sys2Proof.CalmBus

theorem tried_nil (ws : List (Nat × Word)) : tried ws [] = ws.map fun x => (x, false) := by
  induction ws with
  | nil => rfl
  | cons x ws ih => exact congrArg ((x, false) :: ·) ih

/-- A record written with no bus turns: the words inside the window are put in memory, and one WINDOW_REFUSED is handed
for the others. -/
theorem writeRecord_quiet (e : Env) (src : Source) (ws : List (Nat × Word)) {io : Io} (h : io.turns = []) :
    ((writeRecord e src ws io).1 = true ↔ ∀ x ∈ ws, e.lo ≤ x.1 ∧ x.1 + 4 ≤ e.hi) ∧
    (writeRecord e src ws io).2 = { handAll e (windowRefusal src (refusedOf e ws)) io with
      turns := [], mem := putWords (insideOf e ws) io.mem } := by
  obtain ⟨hmade, hio, hmem⟩ := writeRecord_spec e src ws io
  have hfailed : failedOf ((insideOf e ws).map fun x => (x, false)) = [] := by simp [failedOf]
  have hputs : madeOf ((insideOf e ws).map fun x => (x, false)) = insideOf e ws := by
    simp [madeOf, List.filter_map, Function.comp_def]
  rw [h, tried_nil, hfailed] at hmade hio
  rw [h, tried_nil, hputs] at hmem
  refine ⟨?made, ?io⟩
  case made =>
    rw [hmade, refusedOf, List.filter_eq_nil_iff, and_iff_left rfl]
    refine forall₂_congr fun x _ => ?_
    rw [decide_eq_true_eq]
    omega
  case io =>
    rw [List.drop_nil, hmem fun _ ht => absurd ht List.not_mem_nil] at hio
    exact hio

/-- The words of a record that are made, when these are the ones in memory: each reads back, and every other byte stands. -/
theorem putWords_sublist {ms ws : List (Nat × Word)} {m : List Host.Cell} (hwf : memoryWf m = true) (hsub : ms.Sublist ws)
    (hapart : ws.Pairwise fun x y => x.1 + 4 ≤ y.1 ∨ y.1 + 4 ≤ x.1) :
    (∀ x ∈ ms, readMemWord x.1 (putWords ms m) = x.2) ∧
    ∀ a, (∀ x ∈ ms, a < x.1 ∨ x.1 + 4 ≤ a) → readByte a (putWords ms m) = readByte a m :=
  ⟨readMemWord_putWords hwf (hapart.sublist hsub), fun _ h => readByte_putWords_other hwf h⟩

theorem mem_insideOf {e : Env} {ws : List (Nat × Word)} {x : Nat × Word} :
    x ∈ insideOf e ws ↔ x ∈ ws ∧ e.lo ≤ x.1 ∧ x.1 + 4 ≤ e.hi := by
  rw [insideOf, List.mem_filter, decide_eq_true_eq]

theorem insideOf_sublist (e : Env) (ws : List (Nat × Word)) : (insideOf e ws).Sublist ws := List.filter_sublist

theorem insideOf_all {e : Env} {ws : List (Nat × Word)} (h : ∀ x ∈ ws, e.lo ≤ x.1 ∧ x.1 + 4 ≤ e.hi) :
    insideOf e ws = ws := List.filter_eq_self.2 fun x hx => decide_eq_true (h x hx)

theorem refusedOf_none {e : Env} {ws : List (Nat × Word)} (h : ∀ x ∈ ws, e.lo ≤ x.1 ∧ x.1 + 4 ≤ e.hi) :
    refusedOf e ws = [] := by
  rw [refusedOf, List.filter_eq_nil_iff]
  intro x hx
  have := h x hx
  rw [decide_eq_true_eq]
  omega

/-! ## Two words -/

/-- What a record of two words leaves when the first is made as `x` says and the second as `y` says. -/
structure PairWritten (e : Env) (src : Source) (p q : Nat × Word) (x y : Prop) (ns : List NoticeOut) (io : Io) : Prop where
  made : (writeRecord e src [p, q] io).1 = true ↔ x ∧ y
  bus : (writeRecord e src [p, q] io).2 = { handAll e ns io with turns := [], mem := (writeRecord e src [p, q] io).2.mem }
  first : x → readMemWord p.1 (writeRecord e src [p, q] io).2.mem = p.2
  second : y → readMemWord q.1 (writeRecord e src [p, q] io).2.mem = q.2
  other : ∀ a, ¬ (x ∧ p.1 ≤ a ∧ a < p.1 + 4) → ¬ (y ∧ q.1 ≤ a ∧ a < q.1 + 4) →
    readByte a (writeRecord e src [p, q] io).2.mem = readByte a io.mem

variable {e : Env} {src : Source} {p q : Nat × Word} {io : Io}

/-- From the words that are put in memory. -/
theorem pairWritten_of_putWords {x y : Prop} {ns : List NoticeOut} {ms : List (Nat × Word)} (hwf : memoryWf io.mem = true)
    (hapart : p.1 + 4 ≤ q.1 ∨ q.1 + 4 ≤ p.1) (hsub : ms.Sublist [p, q]) (hx : p ∈ ms ↔ x) (hy : q ∈ ms ↔ y)
    (hmade : (writeRecord e src [p, q] io).1 = true ↔ x ∧ y)
    (hio : (writeRecord e src [p, q] io).2 = { handAll e ns io with turns := [], mem := putWords ms io.mem }) :
    PairWritten e src p q x y ns io := by
  have hmem : (writeRecord e src [p, q] io).2.mem = putWords ms io.mem := by rw [hio]
  obtain ⟨hread, hother⟩ := putWords_sublist hwf hsub (List.pairwise_pair.2 hapart)
  refine ⟨hmade, by rw [hmem]; exact hio, fun h => ?_, fun h => ?_, fun a hp hq => ?_⟩ <;> rw [hmem]
  · exact hread p (hx.2 h)
  · exact hread q (hy.2 h)
  · refine hother a fun z hz => ?_
    obtain rfl | rfl : z = p ∨ z = q := by simpa using hsub.subset hz
    · by_contra hin
      exact hp ⟨hx.1 hz, by omega⟩
    · by_contra hin
      exact hq ⟨hy.1 hz, by omega⟩

theorem pairWritten_quiet (hwf : memoryWf io.mem = true) (h : io.turns = []) (hapart : p.1 + 4 ≤ q.1 ∨ q.1 + 4 ≤ p.1) :
    PairWritten e src p q (e.lo ≤ p.1 ∧ p.1 + 4 ≤ e.hi) (e.lo ≤ q.1 ∧ q.1 + 4 ≤ e.hi)
      (windowRefusal src (refusedOf e [p, q])) io := by
  obtain ⟨hmade, hio⟩ := writeRecord_quiet e src [p, q] h
  refine pairWritten_of_putWords hwf hapart (insideOf_sublist ..) ?_ ?_ ?_ hio
  · rw [mem_insideOf, and_iff_right List.mem_cons_self]
  · rw [mem_insideOf, and_iff_right (by simp)]
  · simp [hmade]

/-- The first word that the window refuses names the WINDOW_REFUSED. -/
theorem windowRefusal_pair (e : Env) (src : Source) (p q : Nat × Word) : windowRefusal src (refusedOf e [p, q]) =
    if ¬ (e.lo ≤ p.1 ∧ p.1 + 4 ≤ e.hi) then [⟨.windowRefused, src, BitVec.ofNat 32 p.1, 0, 0⟩]
    else if ¬ (e.lo ≤ q.1 ∧ q.1 + 4 ≤ e.hi) then [⟨.windowRefused, src, BitVec.ofNat 32 q.1, 0, 0⟩] else [] := by
  have hout (z : Nat × Word) : (z.1 < e.lo ∨ e.hi < z.1 + 4) ↔ ¬ (e.lo ≤ z.1 ∧ z.1 + 4 ≤ e.hi) := by omega
  simp only [refusedOf, hout, windowRefusal, List.filter_cons, List.filter_nil, decide_eq_true_eq]
  split
  · rfl
  · split <;> rfl

/-- Two words inside the window, the first failing as `x` says and the second as `y` says. -/
theorem pairWritten_turns (hwf : memoryWf io.mem = true) {x y : Bool} (h : io.turns = [⟨[], x⟩, ⟨[], y⟩])
    (hp : e.lo ≤ p.1 ∧ p.1 + 4 ≤ e.hi) (hq : e.lo ≤ q.1 ∧ q.1 + 4 ≤ e.hi) (hapart : p.1 + 4 ≤ q.1 ∨ q.1 + 4 ≤ p.1) :
    PairWritten e src p q (x = false) (y = false) (writeFailures src ((if x = true then [p.1] else []) ++
      if y = true then [q.1] else [])) io := by
  have hall : ∀ z ∈ [p, q], e.lo ≤ z.1 ∧ z.1 + 4 ≤ e.hi := by simp [hp, hq]
  obtain ⟨hmade, hio, hmem⟩ := writeRecord_spec e src [p, q] io
  have htried : tried [p, q] io.turns = [(p, x), (q, y)] := by rw [h]; rfl
  have hfailed : failedOf [(p, x), (q, y)] = (if x = true then [p.1] else []) ++ if y = true then [q.1] else [] := by
    cases x <;> cases y <;> rfl
  have hputs : madeOf [(p, x), (q, y)] = (if x = false then [p] else []) ++ if y = false then [q] else [] := by
    cases x <;> cases y <;> rfl
  rw [insideOf_all hall, htried, hfailed, refusedOf_none hall] at hmade hio
  rw [insideOf_all hall, htried, hputs] at hmem
  have hne : p ≠ q := by
    rintro rfl
    omega
  refine pairWritten_of_putWords (ms := (if x = false then [p] else []) ++ if y = false then [q] else [])
    hwf hapart ?_ ?_ ?_ ?_ ?_
  · cases x <;> cases y <;> simp
  · cases x <;> cases y <;> simp [hne]
  · cases x <;> cases y <;> simp [hne.symm]
  · rw [hmade]
    cases x <;> cases y <;> simp
  · have hquiet : ∀ t ∈ io.turns, t.writes = [] := by simp [h]
    rw [hmem hquiet, h] at hio
    rw [hio, windowRefusal, List.head?_nil, Option.map_none, Option.toList_none, List.append_nil]
    rfl

end Sys2Proof.RecordWrites
end

section
/-! The fetch of a stream and its write-backs (5.2 to 5.5): reads of a segment, source samples consumed one after another,
segment ends and starts, and the words that a write-back leaves. -/

namespace Sys2Proof.StreamFetching

open Sys2Proof.Machine Sys2Proof.Laws Sys2Proof.BusSide Sys2Proof.CalmBus Sys2Proof.StreamLaws Sys2Proof.RecordWrites

variable {e : Env} {j : StreamNo} {g : Segment} {f : Fetch} {st : Stream} {io : Io}

/-! ## Counts -/

theorem badCount_iff (count : Word) : badCount count = true ↔ ¬ (-16777215 ≤ count.toInt ∧ count.toInt ≤ 16777215) := by
  simp only [badCount, Config.longest, Bool.or_eq_true, decide_eq_true_eq]
  omega

theorem not_badCount_of_playable {count : Word} (h : playableCount count) : badCount count = false := by
  obtain ⟨-, hlo, hhi⟩ := h
  rw [Bool.eq_false_iff, Ne, badCount_iff, not_not]
  exact ⟨hlo, hhi⟩

theorem badCount_of_not_playable {count : Word} (hne : count ≠ 0) (h : ¬ playableCount count) : badCount count = true := by
  have hint : count.toInt ≠ 0 := fun h0 => hne (BitVec.eq_of_toInt_eq (by simpa using h0))
  rw [badCount_iff]
  exact fun hin => h ⟨hint, hin⟩

theorem enterSegment_playable {count : Word} (address : Word) (h : playableCount count) :
    enterSegment g count address = some (positionAt g count address) := by
  obtain ⟨hne, -⟩ := h
  unfold enterSegment positionAt
  rw [if_neg hne]
  split <;> rfl

theorem playableCount_ne_zero {count : Word} (h : playableCount count) : count ≠ 0 := by
  rintro rfl
  exact h.1 rfl

/-! ## Reading a segment -/

@[simp] theorem setBad_owed (st : Stream) (g h : Segment) (x : Bool) : (st.setBad g x).owed h = st.owed h := by
  cases g <;> cases h <;> rfl

theorem setBad_position (st : Stream) (g : Segment) (x : Bool) : (st.setBad g x).position = st.position := by
  cases g <;> rfl

theorem other_ne (g : Segment) : g.other ≠ g := by cases g <;> decide

theorem readSegment_unread (h : (f.stream.owed g).isSome = true ∨ g ∈ f.ended) :
    readSegment e j g f = (.unplayable false, f) := by
  unfold readSegment
  rw [if_pos (by simpa using h)]

section
variable {c a : Option Word} {count address : Word} {io₁ io₂ : Io} (howed : f.stream.owed g = none) (hended : g ∉ f.ended)
include howed hended

theorem readSegment_whole (hc : readWord (countAt e.area j g) f.io = (some count, io₁))
    (ha : readWord (addressAt e.area j g) io₁ = (some address, io₂)) :
    readSegment e j g f = judgeSegment e j g count address { f with io := io₂ } := by
  unfold readSegment
  rw [if_neg (by simp [howed, hended])]
  simp only [hc, ha]

theorem readSegment_countFailed (hc : readWord (countAt e.area j g) f.io = (none, io₁))
    (ha : readWord (addressAt e.area j g) io₁ = (a, io₂)) :
    readSegment e j g f = (.unplayable true, { f with io := io₂ }.failure e j g (countAt e.area j g)) := by
  unfold readSegment
  rw [if_neg (by simp [howed, hended])]
  simp only [hc, ha]

theorem readSegment_addressFailed (hc : readWord (countAt e.area j g) f.io = (some count, io₁))
    (ha : readWord (addressAt e.area j g) io₁ = (none, io₂)) :
    readSegment e j g f = (.unplayable false, { f with io := io₂ }.failure e j g (addressAt e.area j g)) := by
  unfold readSegment
  rw [if_neg (by simp [howed, hended])]
  simp only [hc, ha]

end

section
variable (hturns : f.io.turns = []) (howed : f.stream.owed g = none) (hended : g ∉ f.ended)
include hturns howed hended

theorem readSegment_quiet : readSegment e j g f = judgeSegment e j g (readMemWord (countAt e.area j g) f.io.mem)
    (readMemWord (addressAt e.area j g) f.io.mem) f := by
  have hread (a : Nat) : readWord a f.io = (some (readMemWord a f.io.mem), f.io) := by
    rw [readWord_calm a (hturns ▸ calm_nil 1), after_of_nil hturns]
  exact readSegment_whole howed hended (hread _) (hread _)

theorem readSegment_empty (h : readMemWord (countAt e.area j g) f.io.mem = 0) :
    readSegment e j g f = (.unplayable false, { f with stream := f.stream.setBad g false }) := by
  rw [readSegment_quiet hturns howed hended, h]
  rfl

theorem readSegment_playable (h : playableCount (readMemWord (countAt e.area j g) f.io.mem)) :
    readSegment e j g f = (.playable (positionAt g (readMemWord (countAt e.area j g) f.io.mem)
      (readMemWord (addressAt e.area j g) f.io.mem)), { f with stream := f.stream.setBad g false }) := by
  rw [readSegment_quiet hturns howed hended, judgeSegment, not_badCount_of_playable h, if_neg Bool.false_ne_true,
    enterSegment_playable _ h]

/-- A segment that is not bad is read without a notice, and its bad-seen mark goes. -/
theorem readSegment_clears (h : playableCount (readMemWord (countAt e.area j g) f.io.mem) ∨
      readMemWord (countAt e.area j g) f.io.mem = 0) :
    (readSegment e j g f).2 = { f with stream := f.stream.setBad g false } := by
  obtain h | h := h
  · rw [readSegment_playable hturns howed hended h]
  · rw [readSegment_empty hturns howed hended h]

theorem readSegment_bad (hne : readMemWord (countAt e.area j g) f.io.mem ≠ 0)
    (h : ¬ playableCount (readMemWord (countAt e.area j g) f.io.mem)) :
    readSegment e j g f = (.unplayable false, if f.stream.bad g = true then f else { f with
      stream := f.stream.setBad g true
      io := hand e .badSegment (.stream j) (BitVec.ofNat 32 g.encode) (readMemWord (countAt e.area j g) f.io.mem) 0
        f.io }) := by
  rw [readSegment_quiet hturns howed hended, judgeSegment, badCount_of_not_playable hne h, if_pos rfl]
  rfl

end

theorem readWord_turn (a : Nat) {x : Bool} {ts : List BusTurn} (h : io.turns = ⟨[], x⟩ :: ts) :
    readWord a io = (if x = true then none else some (readMemWord a io.mem), { io with turns := ts }) := by
  rw [readWord, takeTurn, h]
  rfl

/-- The first failed read of a fetch hands READ_FAILED; a later one does not. -/
theorem failure_eq (f : Fetch) (e : Env) (j : StreamNo) (g : Segment) (a : Nat) : f.failure e j g a = { f with
    failed := true
    io := if f.failed = true then f.io
      else hand e .readFailed (.stream j) (BitVec.ofNat 32 a) (BitVec.ofNat 32 g.encode) 0 f.io } := by
  obtain ⟨stream, io, failed, silent, ended, out⟩ := f
  cases failed <;> rfl

theorem readSegment_failed {x y : Bool} {ts : List BusTurn} (hxy : x = true ∨ y = true)
    (hturns : f.io.turns = ⟨[], x⟩ :: ⟨[], y⟩ :: ts ∨ f.io.turns = [⟨[], x⟩] ∧ y = false ∧ ts = [])
    (howed : f.stream.owed g = none) (hended : g ∉ f.ended) :
    readSegment e j g f = (.unplayable x, { f with io := { f.io with turns := ts } }.failure e j g
      (if x = true then countAt e.area j g else addressAt e.area j g)) := by
  have hreads : ∃ io₁ : Io, readWord (countAt e.area j g) f.io =
        (if x = true then none else some (readMemWord (countAt e.area j g) f.io.mem), io₁) ∧
      readWord (addressAt e.area j g) io₁ =
        (if y = true then none else some (readMemWord (addressAt e.area j g) f.io.mem), { f.io with turns := ts }) := by
    obtain h | ⟨h, rfl, rfl⟩ := hturns
    · exact ⟨_, readWord_turn _ h, readWord_turn _ rfl⟩
    · exact ⟨_, readWord_turn _ h, rfl⟩
  obtain ⟨io₁, hcount, haddress⟩ := hreads
  cases x with
  | true => exact readSegment_countFailed howed hended hcount haddress
  | false =>
    obtain rfl : y = true := hxy.resolve_left Bool.false_ne_true
    exact readSegment_addressFailed howed hended hcount haddress

/-! ## Consuming source samples -/

theorem readSample_quiet (g : Segment) (a : Nat) (h : f.io.turns = []) :
    readSample e j g a f = { f with out := (readMemHalf a f.io.mem).toInt :: f.out } := by
  rw [readSample, readHalf_calm a (h ▸ calm_nil 1), after_of_nil h]

theorem readSample_failed (g : Segment) (a : Nat) {ts : List BusTurn} (h : f.io.turns = ⟨[], true⟩ :: ts) :
    readSample e j g a f = { { f with io := { f.io with turns := ts } }.failure e j g a with
      silent := true, out := 0 :: f.out } := by
  rw [readSample, readHalf_error a h]

theorem noteBack_new {a : Word} {n : Nat} {bs : List WriteBack} (h : ∀ b ∈ bs, b.segment ≠ g) :
    noteBack g a n bs = bs ++ [⟨g, a, n⟩] := by
  induction bs with
  | nil => rfl
  | cons b bs ih =>
    obtain ⟨hb, hbs⟩ := List.forall_mem_cons.1 h
    rw [noteBack, if_neg hb, ih hbs, List.cons_append]

theorem noteBack_again {a : Word} {n : Nat} {xs ys : List WriteBack} {b : WriteBack} (h : ∀ c ∈ xs, c.segment ≠ g)
    (hb : b.segment = g) : noteBack g a n (xs ++ b :: ys) = xs ++ ⟨g, a, n⟩ :: ys := by
  induction xs with
  | nil => rw [List.nil_append, noteBack, if_pos hb, List.nil_append]
  | cons c xs ih =>
    obtain ⟨hc, hxs⟩ := List.forall_mem_cons.1 h
    rw [List.cons_append, noteBack, if_neg hc, ih hxs, List.cons_append]

theorem consume_none (h : f.stream.position = none) : consume e j f = { f with out := 0 :: f.out } := by
  rw [consume, h]

/-- A source sample of a one-shot segment: the read, the position moved on, and the write-back noted. -/
theorem consume_oneShot {n : Nat} {a : Word} (h : f.stream.position = some (.oneShot g n a)) :
    consume e j f =
      let q : Fetch := { readSample e j g a.toNat f with
        stream := { (readSample e j g a.toNat f).stream with
          position := some (.oneShot g (n - 1) (a + 2))
          backs := noteBack g (a + 2) (n - 1) (readSample e j g a.toNat f).stream.backs } }
      if n - 1 = 0 then endOneShot e j g q else q := by
  rw [consume, h]
  rfl

theorem consume_loop {start : Word} {len cur : Nat} (h : f.stream.position = some (.loop g start len cur)) :
    consume e j f =
      let q := readSample e j g (start + BitVec.ofNat 32 (2 * cur)).toNat f
      if len ≤ cur + 1 then endPass e j g start len q
      else { q with stream := { q.stream with position := some (.loop g start len (cur + 1)) } } := by
  rw [consume, h]
  rfl

theorem consumeMany_eq_iterate (e : Env) (j : StreamNo) (n : Nat) (f : Fetch) :
    consumeMany e j n f = (consume e j)^[n] f := by
  induction n generalizing f with
  | zero => rfl
  | succ n ih => rw [consumeMany, ih, Function.iterate_succ_apply]

/-- The samples of a run of source samples from an address. -/
def samplesFrom (a : Word) (mem : List Host.Cell) (k : Nat) : List Sample :=
  (List.range k).map fun m => (readMemHalf (a + BitVec.ofNat 32 (2 * m)).toNat mem).toInt

theorem samplesFrom_succ (a : Word) (mem : List Host.Cell) (k : Nat) : samplesFrom a mem (k + 1) =
    samplesFrom a mem k ++ [(readMemHalf (a + BitVec.ofNat 32 (2 * k)).toNat mem).toInt] := by
  rw [samplesFrom, List.range_succ, List.map_append]
  rfl

theorem samplesFrom_getD {a : Word} {mem : List Host.Cell} {k m : Nat} (h : m < k) :
    (samplesFrom a mem k).getD m 0 = (readMemHalf (a + BitVec.ofNat 32 (2 * m)).toNat mem).toInt := by
  simp [samplesFrom, List.getD_eq_getElem?_getD, h]

theorem sampleAddress_succ (a : Word) (k : Nat) :
    a + BitVec.ofNat 32 (2 * k) + 2 = a + BitVec.ofNat 32 (2 * (k + 1)) := by
  rw [Nat.mul_add, BitVec.ofNat_add, BitVec.add_assoc]
  rfl

/-- A one-shot segment that does not end, on a bus without turns. -/
theorem iterate_consume_oneShot {n : Nat} {a : Word} (hturns : f.io.turns = []) (hbacks : f.stream.backs = [])
    (h : f.stream.position = some (.oneShot g n a)) {k : Nat} (hk : k < n) : (consume e j)^[k] f = { f with
      stream := { f.stream with
        position := some (.oneShot g (n - k) (a + BitVec.ofNat 32 (2 * k)))
        backs := if k = 0 then [] else [⟨g, a + BitVec.ofNat 32 (2 * k), n - k⟩] }
      out := (samplesFrom a f.io.mem k).reverse ++ f.out } := by
  induction k with
  | zero =>
    have hstand : { f.stream with position := some (.oneShot g n a), backs := [] } = f.stream := by rw [← h, ← hbacks]
    have hzero : a + BitVec.ofNat 32 (2 * 0) = a := BitVec.add_zero a
    rw [hzero, Nat.sub_zero, if_pos rfl, hstand]
    rfl
  | succ k ih =>
    have hnote : noteBack g (a + BitVec.ofNat 32 (2 * (k + 1))) (n - (k + 1))
        (if k = 0 then [] else [⟨g, a + BitVec.ofNat 32 (2 * k), n - k⟩]) =
          [⟨g, a + BitVec.ofNat 32 (2 * (k + 1)), n - (k + 1)⟩] := by
      by_cases hz : k = 0
      · rw [if_pos hz, noteBack]
      · rw [if_neg hz, noteBack, if_pos rfl]
    rw [Function.iterate_succ_apply', ih (by omega), consume_oneShot rfl, readSample_quiet g _ (by exact hturns)]
    dsimp only
    rw [if_neg (by omega), sampleAddress_succ, Nat.sub_sub, hnote, if_neg (by omega), samplesFrom_succ,
      List.reverse_append]
    rfl

/-- A loop segment whose pass does not end, on a bus without turns. -/
theorem iterate_consume_loop {start : Word} {len cur : Nat} (hturns : f.io.turns = [])
    (h : f.stream.position = some (.loop g start len cur)) {k : Nat} (hk : cur + k < len) :
    (consume e j)^[k] f = { f with
      stream := { f.stream with position := some (.loop g start len (cur + k)) }
      out := (samplesFrom (start + BitVec.ofNat 32 (2 * cur)) f.io.mem k).reverse ++ f.out } := by
  induction k with
  | zero =>
    have hstand : { f.stream with position := some (.loop g start len cur) } = f.stream := by rw [← h]
    rw [Nat.add_zero, hstand]
    rfl
  | succ k ih =>
    have hat : start + BitVec.ofNat 32 (2 * (cur + k)) = start + BitVec.ofNat 32 (2 * cur) + BitVec.ofNat 32 (2 * k) := by
      rw [Nat.mul_add, BitVec.ofNat_add, BitVec.add_assoc]
    rw [Function.iterate_succ_apply', ih (by omega), consume_loop rfl, readSample_quiet g _ (by exact hturns)]
    dsimp only
    rw [if_neg (by omega), hat, samplesFrom_succ, List.reverse_append]
    rfl

/-! ## Segment ends and starts -/

section
variable {into : Position} {x y : Bool}

/-- A fetch whose one-shot segment has just ended: its end noted and posted. -/
def ended (e : Env) (j : StreamNo) (g : Segment) (f : Fetch) : Fetch :=
  { f with ended := g :: f.ended, io := hand e .segmentDone (.stream j) (BitVec.ofNat 32 g.encode) 0 0 f.io }

theorem endOneShot_playable (h : (readSegment e j g.other (ended e j g f)).1 = .playable into) :
    endOneShot e j g f = { (readSegment e j g.other (ended e j g f)).2 with
      stream := { (readSegment e j g.other (ended e j g f)).2.stream with position := some into } } := by
  have heq : endOneShot e j g f = match (readSegment e j g.other (ended e j g f)).1 with
      | .playable p => (readSegment e j g.other (ended e j g f)).2.moveTo (some p)
      | .unplayable _ =>
        let f := ((readSegment e j g.other (ended e j g f)).2.moveTo none).post e j .starved g.word 0
        { f with stream := { f.stream with state := .starved } } := by rfl
  rw [heq, h]
  rfl

theorem endOneShot_unplayable (h : (readSegment e j g.other (ended e j g f)).1 = .unplayable x) :
    endOneShot e j g f = { (readSegment e j g.other (ended e j g f)).2 with
      stream := { (readSegment e j g.other (ended e j g f)).2.stream with position := none, state := .starved }
      io := hand e .starved (.stream j) (BitVec.ofNat 32 g.encode) 0 0
        (readSegment e j g.other (ended e j g f)).2.io } := by
  have heq : endOneShot e j g f = match (readSegment e j g.other (ended e j g f)).1 with
      | .playable p => (readSegment e j g.other (ended e j g f)).2.moveTo (some p)
      | .unplayable _ =>
        let f := ((readSegment e j g.other (ended e j g f)).2.moveTo none).post e j .starved g.word 0
        { f with stream := { f.stream with state := .starved } } := by rfl
  rw [heq, h]
  rfl

variable {start : Word} {len : Nat}

theorem endPass_playable (h : (readSegment e j g.other f).1 = .playable into) :
    endPass e j g start len f = { (readSegment e j g.other f).2 with
      stream := { (readSegment e j g.other f).2.stream with position := some into }
      io := hand e .segmentLeft (.stream j) (BitVec.ofNat 32 g.encode) 0 0 (readSegment e j g.other f).2.io } := by
  simp only [endPass, h]
  rfl

theorem endPass_unplayable (h : (readSegment e j g.other f).1 = .unplayable x) :
    endPass e j g start len f = { (readSegment e j g.other f).2 with
      stream := { (readSegment e j g.other f).2.stream with position := some (.loop g start len 0) } } := by
  simp only [endPass, h]
  rfl

variable {a b : SegmentRead × Fetch} (ha : readSegment e j .a f = a) (hb : readSegment e j .b a.2 = b)
include ha hb

/-- A start from what the reads of both segments have found. -/
theorem startFetch_reads : startFetch e j f = match a.1, b.1 with
    | .playable p, _ => b.2.moveTo (some p)
    | .unplayable _, .playable p => b.2.moveTo (some p)
    | .unplayable x, .unplayable y => if x || y then b.2 else
        { b.2 with
          stream := { b.2.stream with state := .starved, framesStarved := countUp b.2.stream.framesStarved }
          io := hand e .starved (.stream j) 0 0 0 b.2.io } := by
  subst ha hb
  rfl

theorem startFetch_first (h : a.1 = .playable into) :
    startFetch e j f = { b.2 with stream := { b.2.stream with position := some into } } := by
  rw [startFetch_reads ha hb, h]
  rfl

theorem startFetch_second (h : a.1 = .unplayable x) (h' : b.1 = .playable into) :
    startFetch e j f = { b.2 with stream := { b.2.stream with position := some into } } := by
  rw [startFetch_reads ha hb, h, h']
  rfl

theorem startFetch_neither (h : a.1 = .unplayable x) (h' : b.1 = .unplayable y) :
    startFetch e j f = if x = true ∨ y = true then b.2 else { b.2 with
      stream := { b.2.stream with state := .starved, framesStarved := countUp b.2.stream.framesStarved }
      io := hand e .starved (.stream j) 0 0 0 b.2.io } := by
  rw [startFetch_reads ha hb, h, h']
  simp only [Bool.or_eq_true]

theorem fetchStarved_neither (h : a.1 = .unplayable x) (h' : b.1 = .unplayable y) : fetchStarved e j f =
    { b.2 with stream := { b.2.stream with framesStarved := countUp b.2.stream.framesStarved } } := by
  subst ha hb
  simp only [fetchStarved, h, h']

theorem fetchStarved_either (h : (∃ p, a.1 = .playable p) ∨ ∃ p, b.1 = .playable p) : fetchStarved e j f =
    { b.2 with stream := { b.2.stream with state := .running, position := none } } := by
  subst ha hb
  obtain ⟨p, h⟩ | ⟨p, h⟩ := h
  · simp only [fetchStarved, h]
  · cases hfirst : (readSegment e j .a f).1 <;> simp only [fetchStarved, hfirst, h]

end

/-! ## The fetch of a frame -/

/-- A fetch as it begins. -/
def fetchOf (st : Stream) (io : Io) : Fetch :=
  ⟨{ st with buffer := silence, playing := false, backs := [] }, io, false, false, [], []⟩

theorem fetchStream_still (e : Env) (j : StreamNo) (io : Io) (h : st.state = .disabled ∨ st.state = .waiting) :
    fetchStream e j st io = ({ st with buffer := silence, playing := false, backs := [] }, io) := by
  obtain h | h := h <;> rw [fetchStream, h]

theorem fetchStream_starved (e : Env) (j : StreamNo) (io : Io) (h : st.state = .starved) : fetchStream e j st io =
    ((fetchStarved e j (fetchOf st io)).stream, (fetchStarved e j (fetchOf st io)).io) := by
  cases st
  subst h
  rfl

/-- Each source sample of a NARROW stream is two output samples. -/
theorem doubled_getD (xs : List Sample) (i : Nat) : (xs.flatMap fun x => [x, x]).getD i 0 = xs.getD (i / 2) 0 := by
  induction xs generalizing i with
  | nil => rfl
  | cons x xs ih =>
    match i with
    | 0 => rfl
    | 1 => rfl
    | i + 2 =>
      have hhalf : (i + 2) / 2 = i / 2 + 1 := by omega
      rw [hhalf, List.getD_cons_succ, ← ih i]
      rfl

theorem spread_eq_map (narrow : Bool) {xs : List Sample} (h : xs.length = frameSource narrow) :
    spread narrow xs = (List.range 80).map fun i => xs.getD (if narrow = true then i / 2 else i) 0 := by
  rw [EchoCanceller.eq_map_getD 0 (spread_length narrow h)]
  refine List.map_congr_left fun i _ => ?_
  cases narrow with
  | false => rfl
  | true => exact doubled_getD xs i

/-- The frame of a RUNNING stream, from the fetch after its start. -/
theorem fetchStream_running (e : Env) (j : StreamNo) (io : Io) (h : st.state = .running) :
    let from' := if st.position = none then startFetch e j (fetchOf st io) else fetchOf st io
    let done := (consume e j)^[if st.narrow = true then 40 else 80] from'
    fetchStream e j st io = if from'.stream.position = none then (from'.stream, from'.io) else
      ({ done.stream with
          playing := true
          buffer := if done.silent = true then silence else (List.range 80).map fun i =>
            done.out.reverse.getD (if st.narrow = true then i / 2 else i) 0 }, done.io) := by
  intro from' done
  have hfetch : fetchStream e j st io =
      ((fetchRunning e j (fetchOf st io)).stream, (fetchRunning e j (fetchOf st io)).io) := by
    cases st
    subst h
    rfl
  have hfrom : (if (fetchOf st io).stream.position.isNone = true then startFetch e j (fetchOf st io) else fetchOf st io) =
      from' := if_congr Option.isNone_iff_eq_none rfl rfl
  have hmoves : Moves 0 (fetchOf st io) from' := by
    unfold from'
    split
    · exact startFetch_moves ..
    · exact .refl _
  have hnarrow : from'.stream.narrow = st.narrow := by
    have hstill := hmoves.still
    simp only [stillOf, Prod.mk.injEq] at hstill
    exact hstill.2.2.1
  have hout : done.out.reverse.length = frameSource st.narrow := by
    have hdone : Moves (frameSource st.narrow) from' done := by
      have hmany := consumeMany_moves e j (frameSource st.narrow) from'
      rw [consumeMany_eq_iterate] at hmany
      exact hmany
    rw [List.length_reverse, hdone.out, hmoves.out]
    exact Nat.zero_add _
  rw [hfetch, fetchRunning]
  dsimp only
  rw [hfrom, hnarrow, consumeMany_eq_iterate]
  by_cases hnone : from'.stream.position = none
  · rw [if_pos (Option.isNone_iff_eq_none.2 hnone), if_pos hnone]
  · rw [if_neg (Option.isNone_iff_eq_none.not.2 hnone), if_neg hnone, ← spread_eq_map st.narrow hout]
    rfl

/-- The buffer of samples that all came, for a narrow or a wide stream. -/
theorem samplesFrom_spread (narrow : Bool) (a : Word) (mem : List Host.Cell) :
    ((List.range 80).map fun i => (samplesFrom a mem (if narrow = true then 40 else 80)).getD
      (if narrow = true then i / 2 else i) 0) = (List.range 80).map fun i =>
        (readMemHalf (a + BitVec.ofNat 32 (2 * if narrow = true then i / 2 else i)).toNat mem).toInt := by
  refine List.map_congr_left fun i hi => samplesFrom_getD ?_
  have := List.mem_range.1 hi
  cases narrow with
  | false => exact this
  | true =>
    show i / 2 < 40
    omega

section
variable (hstate : st.state = .running) (hturns : io.turns = [])
include hstate hturns

theorem fetchStream_oneShot (e : Env) (j : StreamNo) {n : Nat} {a : Word} (hpos : st.position = some (.oneShot g n a))
    (hn : (if st.narrow = true then 40 else 80) < n) : fetchStream e j st io =
      ({ st with
          position := some (.oneShot g (n - if st.narrow = true then 40 else 80)
            (a + BitVec.ofNat 32 (2 * if st.narrow = true then 40 else 80)))
          buffer := (List.range 80).map fun i => (readMemHalf
            (a + BitVec.ofNat 32 (2 * if st.narrow = true then i / 2 else i)).toNat io.mem).toInt
          playing := true
          backs := [⟨g, a + BitVec.ofNat 32 (2 * if st.narrow = true then 40 else 80),
            n - if st.narrow = true then 40 else 80⟩] }, io) := by
  have hpos' : (fetchOf st io).stream.position = some (.oneShot g n a) := hpos
  have hrun := iterate_consume_oneShot (e := e) (j := j) (f := fetchOf st io) hturns rfl hpos' hn
  have hfrom : (if st.position = none then startFetch e j (fetchOf st io) else fetchOf st io) = fetchOf st io :=
    if_neg (by simp [hpos])
  have hsome : ¬ (fetchOf st io).stream.position = none := by simp [hpos']
  rw [fetchStream_running e j io hstate, hfrom, if_neg hsome, hrun, ← samplesFrom_spread]
  have hne : (if st.narrow = true then 40 else 80) ≠ 0 := by split <;> decide
  dsimp only [fetchOf]
  simp only [if_neg hne, Bool.false_eq_true, reduceIte, List.append_nil, List.reverse_reverse]

theorem fetchStream_loop (e : Env) (j : StreamNo) {start : Word} {len cur : Nat}
    (hpos : st.position = some (.loop g start len cur)) (hcur : cur + (if st.narrow = true then 40 else 80) < len) :
    fetchStream e j st io =
      ({ st with
          position := some (.loop g start len (cur + if st.narrow = true then 40 else 80))
          buffer := (List.range 80).map fun i => (readMemHalf
            (start + BitVec.ofNat 32 (2 * (cur + if st.narrow = true then i / 2 else i))).toNat io.mem).toInt
          playing := true
          backs := [] }, io) := by
  have hpos' : (fetchOf st io).stream.position = some (.loop g start len cur) := hpos
  have hrun := iterate_consume_loop (e := e) (j := j) (f := fetchOf st io) hturns hpos' hcur
  have hfrom : (if st.position = none then startFetch e j (fetchOf st io) else fetchOf st io) = fetchOf st io :=
    if_neg (by simp [hpos])
  have hsome : ¬ (fetchOf st io).stream.position = none := by simp [hpos']
  have hat (m : Nat) : start + BitVec.ofNat 32 (2 * (cur + m)) =
      start + BitVec.ofNat 32 (2 * cur) + BitVec.ofNat 32 (2 * m) := by
    rw [Nat.mul_add, BitVec.ofNat_add, BitVec.add_assoc]
  simp only [hat]
  rw [fetchStream_running e j io hstate, hfrom, if_neg hsome, hrun, ← samplesFrom_spread]
  dsimp only [fetchOf]
  simp only [Bool.false_eq_true, reduceIte, List.append_nil, List.reverse_reverse]

end

/-! ## Write-backs -/

theorem segmentWords_apart (area : Nat) (j : StreamNo) (g : Segment) :
    addressAt area j g + 4 ≤ countAt area j g ∨ countAt area j g + 4 ≤ addressAt area j g := by
  cases g with
  | a => exact .inr (Nat.le_refl _)
  | b => exact .inr (Nat.le_refl _)

theorem retryOwed_owed {o : Word} (h : st.owed g = some o) : retryOwed e j (st, io) g =
    (if (writeSegment e j g o 0 io).1 = true then st.setOwed g none else st, (writeSegment e j g o 0 io).2) := by
  rw [retryOwed]
  simp only [h]

/-- What a write-back, or its retry, has left when its address word is made as `x` says and its count word as `y` says. -/
def Left (e : Env) (j : StreamNo) (g : Segment) (io : Io) (x y : Prop) (ns : List NoticeOut) (address : Word) (left : Nat)
    (t : Io) : Prop :=
  t = { handAll e ns io with turns := [], mem := t.mem } ∧ (x → readMemWord (addressAt e.area j g) t.mem = address) ∧
  (y → readMemWord (countAt e.area j g) t.mem = BitVec.ofNat 32 left) ∧
  ∀ a, ¬ (x ∧ addressAt e.area j g ≤ a ∧ a < addressAt e.area j g + 4) →
    ¬ (y ∧ countAt e.area j g ≤ a ∧ a < countAt e.area j g + 4) → readByte a t.mem = readByte a io.mem

/-- A write-back and a retry of the same segment, from how their two words are written. -/
theorem writeBack_settles {x y : Prop} {ns : List NoticeOut} (b : WriteBack)
    (h : ∀ (w : Word) (n : Nat), PairWritten e (.stream j) (addressAt e.area j b.segment, w)
      (countAt e.area j b.segment, BitVec.ofNat 32 n) x y ns io) :
    Left e j b.segment io x y ns b.address b.remaining (writeBackOne e j (st, io) b).2 ∧
    (x → y → (writeBackOne e j (st, io) b).1 = st) ∧
    (¬ (x ∧ y) → (writeBackOne e j (st, io) b).1 =
      if b.remaining = 0 then st.setOwed b.segment (some b.address) else st) ∧
    ∀ o, st.owed b.segment = some o →
      Left e j b.segment io x y ns o 0 (retryOwed e j (st, io) b.segment).2 ∧
      (x → y → (retryOwed e j (st, io) b.segment).1 = st.setOwed b.segment none) ∧
      (¬ (x ∧ y) → (retryOwed e j (st, io) b.segment).1 = st) := by
  have hleft (w : Word) (n : Nat) : Left e j b.segment io x y ns w n (writeSegment e j b.segment w n io).2 := by
    obtain ⟨-, hbus, hfirst, hsecond, hother⟩ := h w n
    exact ⟨hbus, hfirst, hsecond, hother⟩
  have hmade (w : Word) (n : Nat) : (writeSegment e j b.segment w n io).1 = true ↔ x ∧ y := (h w n).made
  refine ⟨hleft b.address b.remaining, fun hx hy => ?made, fun hno => ?owes, fun o ho => ?retry⟩
  case made => simp [writeBackOne, (hmade b.address b.remaining).2 ⟨hx, hy⟩]
  case owes => simp [writeBackOne, Bool.eq_false_iff.2 ((hmade b.address b.remaining).not.2 hno)]
  case retry =>
    rw [retryOwed_owed ho]
    exact ⟨hleft o 0, fun hx hy => if_pos ((hmade o 0).2 ⟨hx, hy⟩), fun hno => if_neg ((hmade o 0).not.2 hno)⟩

/-! ## Source samples on a bus without turns, or with a bus error -/

/-- A sample read of a fetch: its sample on a bus without turns, and on a bus error a zero, the silent mark and the first
failure's READ_FAILED. -/
def readOne (e : Env) (j : StreamNo) (g : Segment) (a : Nat) (f : Fetch) : Fetch :=
  if f.io.turns = [] then { f with out := (readMemHalf a f.io.mem).toInt :: f.out }
  else { f with
    out := 0 :: f.out, silent := true, failed := true
    io := if f.failed = true then { f.io with turns := f.io.turns.tail }
      else hand e .readFailed (.stream j) (BitVec.ofNat 32 a) (BitVec.ofNat 32 g.encode) 0
        { f.io with turns := f.io.turns.tail } }

theorem readSample_eq (g : Segment) (a : Nat) (h : f.io.turns = [] ∨ ∃ ts, f.io.turns = ⟨[], true⟩ :: ts) :
    readSample e j g a f = readOne e j g a f := by
  obtain h | ⟨ts, h⟩ := h
  · rw [readOne, if_pos h, readSample_quiet g a h]
  · rw [readOne, if_neg (by simp [h]), readSample_failed g a h, failure_eq, h]
    rfl

theorem readOne_stream (e : Env) (j : StreamNo) (g : Segment) (a : Nat) (f : Fetch) :
    (readOne e j g a f).stream = f.stream := by
  unfold readOne
  split <;> rfl

section
variable (hbus : f.io.turns = [] ∨ ∃ ts, f.io.turns = ⟨[], true⟩ :: ts)
include hbus

theorem consume_oneShot_eq {n : Nat} {a : Word} (hn : 1 ≤ n) (h : f.stream.position = some (.oneShot g n a)) :
    consume e j f =
      let q : Fetch := { readOne e j g a.toNat f with
        stream := { f.stream with
          position := some (.oneShot g (n - 1) (a + 2)), backs := noteBack g (a + 2) (n - 1) f.stream.backs } }
      if n = 1 then endOneShot e j g q else q := by
  have hone : n - 1 = 0 ↔ n = 1 := by omega
  rw [consume_oneShot h, readSample_eq g _ hbus, readOne_stream]
  exact if_congr hone rfl rfl

theorem consume_loop_eq {start : Word} {len cur : Nat} (hcur : cur < len)
    (h : f.stream.position = some (.loop g start len cur)) :
    consume e j f =
      let q := readOne e j g (start + BitVec.ofNat 32 (2 * cur)).toNat f
      if cur + 1 = len then endPass e j g start len q
      else { q with stream := { f.stream with position := some (.loop g start len (cur + 1)) } } := by
  have hend : len ≤ cur + 1 ↔ cur + 1 = len := by omega
  rw [consume_loop h, readSample_eq g _ hbus]
  dsimp only
  rw [readOne_stream]
  exact if_congr hend rfl rfl

end

/-! ## Ends and starts on a bus without turns -/

section
variable (hturns : f.io.turns = [])
include hturns

/-- The other segment is read after the end of a one-shot segment as it is before it. -/
theorem readSegment_ended (howed : f.stream.owed g.other = none) (hended : g.other ∉ f.ended) :
    readSegment e j g.other (ended e j g f) = judgeSegment e j g.other (readMemWord (countAt e.area j g.other) f.io.mem)
      (readMemWord (addressAt e.area j g.other) f.io.mem) (ended e j g f) := by
  have hturns' : (ended e j g f).io.turns = [] := (hand_turns ..).trans hturns
  have hended' : g.other ∉ (ended e j g f).ended := by simpa [ended, other_ne] using hended
  have hmem : (ended e j g f).io.mem = f.io.mem := hand_mem ..
  rw [readSegment_quiet hturns' howed hended', hmem]

variable {a b : SegmentRead × Fetch} (hA : f.stream.owedA = none) (hB : f.stream.owedB = none) (hended : f.ended = [])
include hA hB hended

/-- The reads of both segments at a start, when neither is bad: A, then B. -/
theorem readBoth_quiet {count address : Segment → Word}
    (hcount : ∀ g, count g = readMemWord (countAt e.area j g) f.io.mem)
    (haddress : ∀ g, address g = readMemWord (addressAt e.area j g) f.io.mem)
    (hgood : ∀ g, playableCount (count g) ∨ count g = 0) :
    let a := readSegment e j .a f
    let b := readSegment e j .b a.2
    b.2 = { f with stream := { f.stream with badA := false, badB := false } } ∧
    (playableCount (count .a) → a.1 = .playable (positionAt .a (count .a) (address .a))) ∧
    (count .a = 0 → a.1 = .unplayable false) ∧
    (playableCount (count .b) → b.1 = .playable (positionAt .b (count .b) (address .b))) ∧
    (count .b = 0 → b.1 = .unplayable false) := by
  intro a b
  have hin (g : Segment) : g ∉ f.ended := by simp [hended]
  have hafter : a.2 = { f with stream := f.stream.setBad .a false } :=
    readSegment_clears (g := .a) hturns hA (hin _) (hcount .a ▸ hgood .a)
  have hb : b = readSegment e j .b { f with stream := f.stream.setBad .a false } := by rw [← hafter]
  rw [hb]
  refine ⟨?_, fun h => ?_, fun h => ?_, fun h => ?_, fun h => ?_⟩
  · exact readSegment_clears (g := .b) hturns hB (hin _) (hcount .b ▸ hgood .b)
  · rw [hcount, haddress]
    exact congrArg Prod.fst (readSegment_playable (g := .a) hturns hA (hin _) (hcount .a ▸ h))
  · exact congrArg Prod.fst (readSegment_empty (g := .a) hturns hA (hin _) (hcount .a ▸ h))
  · rw [hcount, haddress]
    exact congrArg Prod.fst (readSegment_playable (g := .b) (f := { f with stream := f.stream.setBad .a false })
      hturns hB (hin _) (hcount .b ▸ h))
  · exact congrArg Prod.fst (readSegment_empty (g := .b) (f := { f with stream := f.stream.setBad .a false })
      hturns hB (hin _) (hcount .b ▸ h))

end

theorem judgeSegment_empty (address : Word) : judgeSegment e j g 0 address f =
    (.unplayable false, { f with stream := f.stream.setBad g false }) := rfl

theorem judgeSegment_playable {count : Word} (address : Word) (h : playableCount count) :
    judgeSegment e j g count address f =
      (.playable (positionAt g count address), { f with stream := f.stream.setBad g false }) := by
  rw [judgeSegment, not_badCount_of_playable h, if_neg Bool.false_ne_true, enterSegment_playable _ h]

/-- The fetch of a STARVED stream, from the reads of both segments. -/
theorem fetchStream_starved_reads (e : Env) (j : StreamNo) (io : Io) (h : st.state = .starved) :
    let a := readSegment e j .a (fetchOf st io)
    let b := readSegment e j .b a.2
    let none' := (∃ x, a.1 = .unplayable x) ∧ ∃ y, b.1 = .unplayable y
    (none' → fetchStream e j st io =
      ({ b.2.stream with framesStarved := countUp b.2.stream.framesStarved }, b.2.io)) ∧
    (¬ none' → fetchStream e j st io = ({ b.2.stream with state := .running, position := none }, b.2.io)) := by
  intro a b none'
  rw [fetchStream_starved e j io h]
  refine ⟨?_, fun hsome => ?_⟩
  · rintro ⟨⟨x, hx⟩, y, hy⟩
    rw [fetchStarved_neither rfl rfl hx hy]
  · have heither : (∃ p, a.1 = .playable p) ∨ ∃ p, b.1 = .playable p := by
      cases ha : a.1 with
      | playable p => exact .inl ⟨p, rfl⟩
      | unplayable x =>
        cases hb : b.1 with
        | playable p => exact .inr ⟨p, rfl⟩
        | unplayable y => exact absurd ⟨⟨x, ha⟩, y, hb⟩ hsome
    rw [fetchStarved_either rfl rfl heither]

/-- Settles O56, part by part: reads of a segment, samples, ends and starts, frames, and write-backs. -/
theorem streamFetch : Obligations.StreamFetch := by
  refine ⟨?still, ?oneShot, ?loop, ?read, ?running, ?sample, ?failed, ?ends, ?start, ?starved, ?endsQuiet, ?startQuiet,
    ?starvedQuiet, fun e j st io => rfl, ?writeBack⟩
  case still => exact fun e j st io h => fetchStream_still e j io h
  case oneShot => exact fun e j st io g n a hstate hturns hpos hn => fetchStream_oneShot hstate hturns e j hpos hn
  case loop =>
    exact fun e j st io g start len cur hstate hturns hpos hcur => fetchStream_loop hstate hturns e j hpos hcur
  case read =>
    intro e j g f hturns count address clear
    refine ⟨readSegment_unread, fun howed hended => ⟨readSegment_empty hturns howed hended,
      readSegment_playable hturns howed hended, fun hne hbad hseen => ?_, fun hne hbad hseen => ?_⟩⟩
    · rw [readSegment_bad hturns howed hended hne hbad, if_pos hseen]
    · rw [readSegment_bad hturns howed hended hne hbad, if_neg (by simp [hseen])]
  case running => exact fun e j st io h => fetchStream_running e j io h
  case sample =>
    intro e j f hbus rest read
    refine ⟨consume_none, fun g n a hn hpos => ⟨fun hnew => ?new, fun xs b ys hbacks hxs hb => ?again⟩,
      fun g start len cur hcur hpos => consume_loop_eq hbus hcur hpos⟩
    case new => rw [consume_oneShot_eq hbus hn hpos, noteBack_new hnew]; rfl
    case again => rw [consume_oneShot_eq hbus hn hpos, hbacks, noteBack_again hxs hb]; rfl
  case failed =>
    intro e j g f x y ts hxy hturns howed hended at' rest
    rw [readSegment_failed hxy hturns howed hended, failure_eq]
  case ends =>
    exact fun e j g f start len => ⟨fun into h => endOneShot_playable h, fun x h => endOneShot_unplayable h,
      fun into h => endPass_playable h, fun x h => endPass_unplayable h⟩
  case start =>
    exact fun e j f => ⟨fun into h => startFetch_first rfl rfl h, fun x h => ⟨fun into h' => startFetch_second rfl rfl h h',
      fun y h' => startFetch_neither rfl rfl h h'⟩⟩
  case starved => exact fun e j st io h => fetchStream_starved_reads e j io h
  case endsQuiet =>
    intro e j g f start len hturns howed hended count address done st
    have hone := readSegment_ended (e := e) (j := j) hturns howed hended
    have hpass := readSegment_quiet (e := e) (j := j) hturns howed hended
    refine ⟨fun h => ⟨?_, ?_⟩, fun h => ⟨?_, ?_⟩⟩
    · rw [judgeSegment_playable _ h] at hone
      rw [endOneShot_playable (congrArg Prod.fst hone), hone]
      rfl
    · rw [judgeSegment_playable _ h] at hpass
      rw [endPass_playable (congrArg Prod.fst hpass), hpass]
    · have hzero : readMemWord (countAt e.area j g.other) f.io.mem = 0 := h
      rw [hzero, judgeSegment_empty] at hone
      rw [endOneShot_unplayable (congrArg Prod.fst hone), hone]
      rfl
    · have hzero : readMemWord (countAt e.area j g.other) f.io.mem = 0 := h
      rw [hzero, judgeSegment_empty] at hpass
      rw [endPass_unplayable (congrArg Prod.fst hpass), hpass]
  case startQuiet =>
    intro e j f hturns hpos hA hB hended count address st
    have hboth := readBoth_quiet (e := e) (j := j) hturns hA hB hended (fun _ => rfl) fun _ => rfl
    refine ⟨fun ha hb => ?_, fun ha hb => ?_, fun ha hb => ?_⟩
    · obtain ⟨hafter, hreadA, -⟩ := hboth (Segment.rec (.inl ha) hb)
      rw [startFetch_first rfl rfl (hreadA ha), hafter]
    · obtain ⟨hafter, -, hreadA, hreadB, -⟩ := hboth (Segment.rec (.inr ha) (.inl hb))
      rw [startFetch_second rfl rfl (hreadA ha) (hreadB hb), hafter]
    · obtain ⟨hafter, -, hreadA, -, hreadB⟩ := hboth (Segment.rec (.inr ha) (.inr hb))
      rw [startFetch_neither rfl rfl (hreadA ha) (hreadB hb), hafter]
      rfl
  case starvedQuiet =>
    intro e j st io hstate hturns hA hB count q
    have hboth := readBoth_quiet (e := e) (j := j) (f := fetchOf st io) hturns hA hB rfl (fun _ => rfl) fun _ => rfl
    obtain ⟨hneither, heither⟩ := fetchStream_starved_reads e j io hstate
    refine ⟨fun ha hb => ?_, fun ha hb hsome => ?_⟩
    · obtain ⟨hafter, -, hreadA, -, hreadB⟩ := hboth (Segment.rec (.inr ha) (.inr hb))
      rw [hneither ⟨⟨false, hreadA ha⟩, false, hreadB hb⟩, hafter]
      rfl
    · obtain ⟨hafter, hreadA, -, hreadB, -⟩ := hboth (Segment.rec ha hb)
      rw [heither fun ⟨⟨x, hx⟩, y, hy⟩ => ?_, hafter]
      · rfl
      · obtain h | h := hsome
        · exact SegmentRead.noConfusion ((hreadA h).symm.trans hx)
        · exact SegmentRead.noConfusion ((hreadB h).symm.trans hy)
  case writeBack =>
    intro e j st io b hwf at' count inside posted leaves settles
    refine ⟨fun hturns => ?_, fun x y hturns hat hcount => ?_⟩
    · refine writeBack_settles b fun w n => ?_
      have hpair := pairWritten_quiet (e := e) (src := .stream j) (p := (at', w)) (q := (count, BitVec.ofNat 32 n))
        hwf hturns (segmentWords_apart ..)
      rw [windowRefusal_pair] at hpair
      exact hpair
    · refine writeBack_settles b fun w n => ?_
      have hpair := pairWritten_turns (e := e) (src := .stream j) (p := (at', w)) (q := (count, BitVec.ofNat 32 n))
        hwf hturns hat hcount (segmentWords_apart ..)
      have hnotices : writeFailures (.stream j) ((if x = true then [at'] else []) ++ if y = true then [count] else []) =
          (if x = true then [posted .writeFailed at'] else []) ++ if y = true then [posted .writeFailed count] else [] := by
        cases x <;> cases y <;> rfl
      rw [hnotices] at hpair
      exact hpair

end Sys2Proof.StreamFetching
end

section
/-! The Prompt Unit's frame (6.4): fetches of a clip, preparation, and playing or holding. -/

namespace Sys2Proof.PromptFrames

open Sys2Proof.Machine Sys2Proof.Laws Sys2Proof.CalmBus Sys2Proof.EchoCanceller Sys2Proof.StreamFetching

variable {e : Env} {k : SeatNo} {p : PromptUnit} {io : Io}

/-! ## The source samples of a buffer -/

/-- The reads of source samples from a clip, one after another. -/
def readFrom (start : Word) (cursor : Nat) (r : ClipRead) (ms : List Nat) : ClipRead :=
  ms.foldl (fun r i => readClipSample start r (cursor + i)) r

theorem readClipSample_calm {start : Word} {r : ClipRead} (index : Nat) (h : calm 1 r.io.turns) :
    readClipSample start r index = { r with
      samples := (readMemHalf (sampleAddress start index) r.io.mem).toInt :: r.samples, io := after 1 r.io } := by
  rw [readClipSample, readHalf_calm _ h]

theorem readClipSample_error {start : Word} {r : ClipRead} (index : Nat) {ts : List BusTurn}
    (h : r.io.turns = ⟨[], true⟩ :: ts) : readClipSample start r index =
      { samples := 0 :: r.samples, failed := some (r.failed.getD (sampleAddress start index))
        io := { r.io with turns := ts } } := by
  rw [readClipSample, readHalf_error _ h]

theorem readFrom_calm (start : Word) (cursor m : Nat) {io : Io} (h : calm m io.turns) :
    readFrom start cursor { samples := [], failed := none, io := io } (List.range m) =
      { samples := ((List.range m).map fun i => (readMemHalf (sampleAddress start (cursor + i)) io.mem).toInt).reverse
        failed := none, io := after m io } := by
  induction m with
  | zero => rfl
  | succ m ih =>
    rw [readFrom, List.range_succ, List.foldl_append]
    refine (congrArg (fun r => readClipSample start r (cursor + m)) (ih (h.mono (by omega)))).trans ?_
    rw [readClipSample_calm _ (by exact h.drop), after_after, List.map_append, List.reverse_append]
    rfl

/-- After a failed sample, with no turn left, the address of the failure and the bus side stand. -/
theorem readFrom_failed (start : Word) (cursor : Nat) {r : ClipRead} {a : Nat} (hf : r.failed = some a)
    (hturns : r.io.turns = []) (ms : List Nat) :
    (readFrom start cursor r ms).failed = some a ∧ (readFrom start cursor r ms).io = r.io := by
  induction ms generalizing r with
  | nil => exact ⟨hf, rfl⟩
  | cons m ms ih =>
    have hread := readClipSample_calm (start := start) (r := r) (cursor + m) (hturns ▸ calm_nil 1)
    have hio : (readClipSample start r (cursor + m)).io = r.io := by rw [hread]; exact after_of_nil hturns 1
    obtain ⟨hfailed, hbus⟩ := ih (r := readClipSample start r (cursor + m)) (by rw [hread]; exact hf) (by rw [hio, hturns])
    exact ⟨hfailed, hbus.trans hio⟩

/-- The first sample that fails, after `m` that come. -/
theorem readFrom_fails (start : Word) (cursor : Nat) {m n : Nat} (hm : m < n) {io : Io}
    (hturns : io.turns = List.replicate m ⟨[], false⟩ ++ [⟨[], true⟩]) :
    (readFrom start cursor { samples := [], failed := none, io := io } (List.range n)).failed =
      some (sampleAddress start (cursor + m)) ∧
    (readFrom start cursor { samples := [], failed := none, io := io } (List.range n)).io = { io with turns := [] } := by
  obtain ⟨d, rfl⟩ : ∃ d, n = m + 1 + d := ⟨n - (m + 1), by omega⟩
  have hcalm := readFrom_calm start cursor m (io := io) (hturns ▸ calm_replicate (Nat.le_refl m) _)
  have herror : (after m io).turns = [⟨[], true⟩] := by simp [after, hturns]
  have hsplit : readFrom start cursor { samples := [], failed := none, io := io } (List.range (m + 1 + d)) =
      readFrom start cursor (readClipSample start
        (readFrom start cursor { samples := [], failed := none, io := io } (List.range m)) (cursor + m))
        ((List.range d).map fun i => m + 1 + i) := by
    rw [readFrom, List.range_add, List.foldl_append, List.range_succ, List.foldl_append]
    rfl
  rw [hsplit, hcalm, readClipSample_error _ herror]
  exact readFrom_failed start cursor rfl rfl _

theorem spread_getD (narrow : Bool) (xs : List Sample) (i : Nat) :
    (spread narrow xs).getD i 0 = xs.getD (if narrow = true then i / 2 else i) 0 := by
  cases narrow with
  | false => rfl
  | true => exact doubled_getD xs i

theorem range_map_getD (f : Nat → Sample) (n m : Nat) :
    ((List.range n).map f).getD m 0 = if m < n then f m else 0 := by
  by_cases h : m < n <;> simp [List.getD_eq_getElem?_getD, h]

/-! ## The fetch of a buffer -/

/-- The address of a source sample after the cursor. -/
def sampleAt (c : Clip) (m : Nat) : Nat := (c.address + BitVec.ofNat 32 (2 * (c.cursor + m))).toNat

theorem fetchClip_calm (e : Env) (k : SeatNo) (cell : CellNo) (c : Clip) (p : PromptUnit) (h : calm (bufferSource c) io.turns) :
    fetchClip e k cell c p io =
      { failed := false, io := after (bufferSource c) io
        unit := { p with
          buffer := (List.range 80).map fun i =>
            if (if c.narrow = true then i / 2 else i) < bufferSource c then
              (readMemHalf (sampleAt c (if c.narrow = true then i / 2 else i)) io.mem).toInt
            else 0
          filled := bufferSource c, last := decide (bufferSource c < frameSource c.narrow) } } := by
  have hread := readFrom_calm c.address c.cursor (bufferSource c) h
  unfold readFrom at hread
  rw [fetchClip, hread]
  dsimp only
  have hbuffer : takePad Config.frameCycles (spread c.narrow ((List.range (bufferSource c)).map fun i =>
      (readMemHalf (sampleAddress c.address (c.cursor + i)) io.mem).toInt)) = (List.range 80).map fun i =>
        if (if c.narrow = true then i / 2 else i) < bufferSource c then
          (readMemHalf (sampleAt c (if c.narrow = true then i / 2 else i)) io.mem).toInt
        else 0 := by
    rw [takePad_eq_map]
    refine List.map_congr_left fun i _ => ?_
    rw [spread_getD, range_map_getD]
    rfl
  rw [List.reverse_reverse, hbuffer]

theorem fetchClip_fails (e : Env) (k : SeatNo) (cell : CellNo) (c : Clip) (p : PromptUnit) {m : Nat}
    (hm : m < bufferSource c) (hturns : io.turns = List.replicate m ⟨[], false⟩ ++ [⟨[], true⟩]) :
    fetchClip e k cell c p io =
      { failed := true, unit := p
        io := hand e .readFailed (.seat k) (BitVec.ofNat 32 (sampleAt c m)) (BitVec.ofNat 32 cell.val) 0
          { io with turns := [] } } := by
  obtain ⟨hfailed, hio⟩ := readFrom_fails c.address c.cursor hm hturns
  unfold readFrom at hfailed hio
  rw [fetchClip, hfailed]
  dsimp only
  rw [hio]
  rfl

/-- A first buffer that comes leaves its cell with nothing to show yet. -/
theorem fetchClip_outcome (e : Env) (k : SeatNo) (cell : CellNo) (c : Clip) (p : PromptUnit) (h : io.turns = []) :
    (fetchClip e k cell c p io).outcome =
      { ended := none, showing := none, unit := (fetchClip e k cell c p io).unit, io := io } := by
  rw [fetchClip_calm e k cell c p (h ▸ calm_nil _), after_of_nil h]
  rfl

/-- A fetch leaves the clip with its cursor. -/
theorem fetchClip_clip (e : Env) (k : SeatNo) (cell : CellNo) (c : Clip) (p : PromptUnit) (io : Io) :
    (fetchClip e k cell c p io).unit.clip = p.clip := by
  unfold fetchClip
  extract_lets n r
  split <;> rfl

/-! ## Playing and holding -/

theorem due_order (h : p.due = true) : ∃ q rest, p.order = q :: rest := by
  unfold PromptUnit.due at h
  cases horder : p.order with
  | nil => rw [horder] at h; cases h
  | cons q rest => exact ⟨q, rest, rfl⟩

theorem promptFrame_held (e : Env) (k : SeatNo) (io : Io) (h : p.due = true) : promptFrame e k false p io =
    { ended := none, showing := some .paused, unit := { p with stage := .started }, io := io } := by
  obtain ⟨q, rest, horder⟩ := due_order h
  simp only [promptFrame, horder, h, reduceIte, Bool.false_eq_true]

section
variable {x : Clip} {q : Cue} {rest : List Cue} (horder : p.order = q :: rest)
include horder

/-- The unit once its first cell has played the buffer of the frame. -/
def played (p : PromptUnit) (x : Clip) : PromptUnit :=
  { p with stage := .started, clip := some { x with cursor := x.cursor + p.filled } }

theorem promptFrame_plays (hdue : p.due = true) (hclip : p.clip = some x) (e : Env) (k : SeatNo) (io : Io) :
    promptFrame e k true p io =
      if p.last = true then { ended := some .played, showing := none, unit := played p x, io := io }
      else
        let r := fetchClip e k q.cell { x with cursor := x.cursor + p.filled } (played p x) io
        { ended := if r.failed = true then some .failed else none
          showing := if r.failed = true then none else some .playing, unit := r.unit, io := r.io } := by
  simp only [promptFrame, horder, hdue, reduceIte, playCell, hclip, Option.map_some, played]
  split
  · rfl
  · split
    · rfl
    · rfl

theorem promptFrame_heard (hdue : p.due = true) (hclip : p.clip = some x) (e : Env) (k : SeatNo) (io : Io) :
    (promptFrame e k true p io).unit.heard = x.cursor + p.filled := by
  rw [promptFrame_plays horder hdue hclip]
  split
  · rfl
  · show (((fetchClip e k q.cell _ (played p x) io).unit.clip).map Clip.cursor).getD 0 = _
    rw [fetchClip_clip]
    rfl

/-! ## A first cell before it plays -/

theorem promptFrame_left (hmark : q.mark ≠ none) (hstage : p.stage ≠ .started) (e : Env) (k : SeatNo) (plays : Bool)
    (io : Io) : promptFrame e k plays p io = { ended := none, showing := none, unit := p, io := io } := by
  have hsome : q.mark.isSome = true := Option.isSome_iff_ne_none.2 hmark
  have hdue : p.due = false := by
    unfold PromptUnit.due
    rw [horder]
    cases hs : p.stage with
    | fresh => rfl
    | ready => exact Option.isNone_eq_false_iff.2 hsome
    | started => exact absurd hs hstage
    | again => rfl
  simp only [promptFrame, horder, hdue, hsome, Bool.false_eq_true, reduceIte]

theorem promptFrame_fresh (hmark : q.mark = none) (hstage : p.stage = .fresh) (e : Env) (k : SeatNo) (plays : Bool)
    (io : Io) : promptFrame e k plays p io = (prepareCell e k q.cell p io).outcome := by
  have hdue : p.due = false := by simp [PromptUnit.due, horder, hstage]
  simp only [promptFrame, horder, hdue, hmark, hstage, Option.isSome_none, Bool.false_eq_true, reduceIte]

theorem promptFrame_again (hmark : q.mark = none) (hstage : p.stage = .again) (hclip : p.clip = some x) (e : Env)
    (k : SeatNo) (plays : Bool) (io : Io) :
    promptFrame e k plays p io = (fetchClip e k q.cell x { p with stage := .ready } io).outcome := by
  have hdue : p.due = false := by simp [PromptUnit.due, horder, hstage]
  simp only [promptFrame, horder, hdue, hmark, hstage, hclip, prepareAgain, Option.isSome_none, Bool.false_eq_true,
    reduceIte]

end

/-! ## Preparation -/

/-- The bus side after an access that fails, the first of the turns that are left, with its READ_FAILED. -/
def readFailedAt (e : Env) (k : SeatNo) (cell : CellNo) (a : Nat) (io : Io) : Io :=
  hand e .readFailed (.seat k) (BitVec.ofNat 32 a) (BitVec.ofNat 32 cell.val) 0 io

section
variable {cell : CellNo} {index : Nat}

theorem readClipEntry_calm (h : calm 3 io.turns) : readClipEntry e k cell index p io =
    takeClip e k cell (readMemWord (clipAt e.area index) io.mem) (readMemWord (clipAt e.area index + 4) io.mem)
      (readMemWord (clipAt e.area index + 8) io.mem) p (after 3 io) := by
  have h₂ : calm 1 (after 1 io).turns := calm.drop (h.mono (by omega))
  have h₃ : calm 1 (after 2 io).turns := calm.drop h
  simp only [readClipEntry, readReporting_calm _ _ _ _ (h.mono (by omega)), readReporting_calm _ _ _ _ h₂, after_after,
    readReporting_calm _ _ _ _ h₃, after_mem]

/-- A word of the clip entry that fails after those before it. -/
theorem readClipEntry_fails {m : Nat} (hm : m < 3) (hturns : io.turns = List.replicate m ⟨[], false⟩ ++ [⟨[], true⟩]) :
    readClipEntry e k cell index p io =
      { failed := true, unit := p
        io := readFailedAt e k cell (clipAt e.area index + 4 * m) { io with turns := [] } } := by
  have hcalm : calm m io.turns := hturns ▸ calm_replicate (Nat.le_refl m) _
  have herror : (after m io).turns = [⟨[], true⟩] := by simp [after, hturns]
  match m with
  | 0 =>
    simp only [readClipEntry, readReporting_error _ _ _ _ hturns]
    rfl
  | 1 =>
    simp only [readClipEntry, readReporting_calm _ _ _ _ hcalm, readReporting_error _ _ _ _ herror]
    rfl
  | 2 =>
    have h₂ : calm 1 (after 1 io).turns := calm.drop hcalm
    simp only [readClipEntry, readReporting_calm _ _ _ _ (hcalm.mono (by omega)), readReporting_calm _ _ _ _ h₂,
      after_after, readReporting_error _ _ _ _ herror]
    rfl

/-- The unit of a first cell whose tag has been read. -/
def tagged (p : PromptUnit) (tag : Word) : PromptUnit := { p with tag := tag, clip := none }

theorem prepareCell_calm (h : calm 2 io.turns) : prepareCell e k cell p io =
    if 63 < (readMemWord (cellAt e.area k cell + 4) io.mem).toNat then
      { failed := true, unit := tagged p (readMemWord (cellAt e.area k cell + 8) io.mem), io := after 2 io }
    else readClipEntry e k cell (readMemWord (cellAt e.area k cell + 4) io.mem).toNat
      (tagged p (readMemWord (cellAt e.area k cell + 8) io.mem)) (after 2 io) := by
  have h₂ : calm 1 (after 1 io).turns := calm.drop h
  simp only [prepareCell, readReporting_calm _ _ _ _ (h.mono (by omega)), readReporting_calm _ _ _ _ h₂, after_after,
    after_mem]
  rfl

/-- The clip word or the tag word that fails. -/
theorem prepareCell_fails {m : Nat} (hm : m < 2) (hturns : io.turns = List.replicate m ⟨[], false⟩ ++ [⟨[], true⟩]) :
    prepareCell e k cell p io =
      { failed := true, unit := tagged p 0
        io := readFailedAt e k cell (cellAt e.area k cell + 4 + 4 * m) { io with turns := [] } } := by
  have hcalm : calm m io.turns := hturns ▸ calm_replicate (Nat.le_refl m) _
  have herror : (after m io).turns = [⟨[], true⟩] := by simp [after, hturns]
  match m with
  | 0 =>
    simp only [prepareCell, readReporting_error _ _ _ _ hturns]
    rfl
  | 1 =>
    simp only [prepareCell, readReporting_calm _ _ _ _ hcalm, readReporting_error _ _ _ _ herror]
    rfl

/-- A word of the clip entry that fails, after the clip word and the tag word. -/
theorem prepareCell_entryFails {m : Nat} (hm : m < 3)
    (hindex : (readMemWord (cellAt e.area k cell + 4) io.mem).toNat ≤ 63)
    (hturns : io.turns = List.replicate (m + 2) ⟨[], false⟩ ++ [⟨[], true⟩]) :
    prepareCell e k cell p io =
      { failed := true, unit := tagged p (readMemWord (cellAt e.area k cell + 8) io.mem)
        io := readFailedAt e k cell (clipAt e.area (readMemWord (cellAt e.area k cell + 4) io.mem).toNat + 4 * m)
          { io with turns := [] } } := by
  have hcalm : calm 2 io.turns := hturns ▸ calm_replicate (by omega) _
  have hrest : (after 2 io).turns = List.replicate m ⟨[], false⟩ ++ [⟨[], true⟩] := by
    simp [after, hturns, List.replicate_succ]
  rw [prepareCell_calm hcalm, if_neg (by omega), readClipEntry_fails hm hrest]
  rfl

/-- A preparation on a bus without turns: it fails for its index or its length, and else fetches the first buffer. -/
theorem prepareCell_quiet (h : io.turns = []) :
    let index := (readMemWord (cellAt e.area k cell + 4) io.mem).toNat
    let entry := clipAt e.area index
    let length := (readMemWord (entry + 4) io.mem).toNat
    let kept := tagged p (readMemWord (cellAt e.area k cell + 8) io.mem)
    let c : Clip :=
      ⟨readMemWord entry io.mem &&& 0xFFFFFFFE#32, length, decide (readMemWord (entry + 8) io.mem = 1), 0⟩
    prepareCell e k cell p io =
      if 63 < index ∨ length = 0 ∨ 16777215 < length then { failed := true, unit := kept, io := io }
      else fetchClip e k cell c { kept with clip := some c, stage := .ready } io := by
  intro index entry length kept c
  have hcalm (n : Nat) : calm n io.turns := h ▸ calm_nil n
  rw [prepareCell_calm (hcalm 2), after_of_nil h]
  by_cases hindex : 63 < index
  · rw [if_pos hindex, if_pos (.inl hindex)]
  · rw [if_neg hindex, readClipEntry_calm (hcalm 3), after_of_nil h, takeClip]
    refine if_congr ?_ rfl rfl
    have hzero : readMemWord (entry + 4) io.mem = 0 ↔ length = 0 := BitVec.toNat_inj.symm
    rw [hzero, or_iff_right hindex]

end

end Sys2Proof.PromptFrames
end

section
/-! Cue cells: the cell scan, which write each cell has at the end of a frame, what a write leaves, and what is finished
(6.3, 6.5, 6.6). -/

namespace Sys2Proof.CueCells

open Sys2Proof.Machine Sys2Proof.Laws Sys2Proof.BusSide Sys2Proof.CalmBus Sys2Proof.RecordWrites Sys2Proof.SeatLaws
  Sys2Proof.PromptFrames Sys2Proof.ReportWords

variable {e : Env} {k : SeatNo} {p : PromptUnit} {io : Io} {c : CellNo}

/-! ## The cell scan -/

theorem decodeCell_encode (w : Word) : (decodeCell w).encode =
    if (w.extractLsb' 0 8).toNat ≤ 4 then (w.extractLsb' 0 8).toNat else 0 := by
  have hfield : field w 0 8 = (w.extractLsb' 0 8).toNat := rfl
  unfold decodeCell
  rw [hfield]
  generalize (w.extractLsb' 0 8).toNat = n
  match n with
  | 0 => rfl
  | 1 => rfl
  | 2 => rfl
  | 3 => rfl
  | 4 => rfl
  | n + 5 => exact (if_neg (by omega)).symm

theorem scanCell_owed (h : ∃ o ∈ p.owed, o.cell = c) : scanCell e k (p, io) c = (p, io) := by
  obtain ⟨o, ho, hcell⟩ := h
  rw [scanCell, if_pos (List.any_eq_true.2 ⟨o, ho, decide_eq_true hcell⟩)]

theorem scanCell_failed (h : ∀ o ∈ p.owed, o.cell ≠ c) {ts : List BusTurn} (hturns : io.turns = ⟨[], true⟩ :: ts) :
    scanCell e k (p, io) c = (p, hand e .readFailed (.seat k) (BitVec.ofNat 32 (cellAt e.area k c))
      (BitVec.ofNat 32 c.val) 0 { io with turns := ts }) := by
  rw [scanCell, if_neg (by simpa using h)]
  dsimp only
  rw [readReporting_error _ _ _ _ hturns]
  rfl

theorem scanCell_read (h : ∀ o ∈ p.owed, o.cell ≠ c) (hturns : io.turns = []) :
    scanCell e k (p, io) c = (scanState c (decodeCell (readMemWord (cellAt e.area k c) io.mem)) p, io) := by
  rw [scanCell, if_neg (by simpa using h)]
  dsimp only
  rw [readReporting_calm _ _ _ _ (hturns ▸ calm_nil 1), after_of_nil hturns]

theorem scanState_new (s : CellState) (h : ∀ q ∈ p.order, q.cell ≠ c) : scanState c s p =
    if s = .posted then { p with order := p.order ++ [⟨c, .posted, none⟩] }
    else if s = .playing ∨ s = .paused then { p with stale := p.stale ++ [c] } else p := by
  have hnone : (p.order.find? fun q => q.cell = c) = none := by simpa using h
  rw [scanState.eq_def, hnone]
  cases s <;> rfl

/-- The cue of a cell, in an order that holds no cell twice. -/
theorem find_cell {l : List Cue} {q : Cue} (hq : q ∈ l) (hnodup : (l.map Cue.cell).Nodup) :
    (l.find? fun r => r.cell = q.cell) = some q := by
  induction l with
  | nil => cases hq
  | cons x l ih =>
    obtain ⟨hx, hl⟩ := List.nodup_cons.1 hnodup
    obtain rfl | hq := List.mem_cons.1 hq
    · exact List.find?_cons_of_pos (decide_eq_true rfl)
    · have hne : x.cell ≠ q.cell := fun heq => hx (heq ▸ List.mem_map_of_mem hq)
      rw [List.find?_cons_of_neg (by simpa using hne), ih hq hl]

theorem scanState_held (s : CellState) {q : Cue} (hq : q ∈ p.order) (hnodup : (p.order.map Cue.cell).Nodup) :
    scanState q.cell s p = if s = q.expected then p else { p with order := p.order.map fun r =>
      if r.cell = q.cell then { r with mark := some (r.mark.getD .withdrawn) } else r } := by
  rw [scanState.eq_def, find_cell hq hnodup]
  simp only [PromptUnit.markWhere, Cue.marked, decide_eq_true_eq]

/-! ## The write of a cell -/

variable {f : PromptFrame}

theorem writeOf_stale (h : c ∈ f.unit.stale) : writeOf f c = some ⟨c, none, .finished .abandoned⟩ :=
  if_pos (List.contains_iff_mem.2 h)

theorem writeOf_none (h : c ∉ f.unit.stale) (hc : ∀ q ∈ f.unit.order, q.cell ≠ c) : writeOf f c = none := by
  have hnone : (f.unit.order.find? fun q => q.cell = c) = none := by simpa using hc
  rw [writeOf, if_neg (mt List.contains_iff_mem.1 h), hnone]

/-- The first cell of an order is the cell of its first cue alone. -/
theorem first_iff {l : List Cue} {q : Cue} (hq : q ∈ l) (hnodup : (l.map Cue.cell).Nodup) :
    l.head?.map Cue.cell = some q.cell ↔ l.head? = some q := by
  refine ⟨fun h => ?_, fun h => by rw [h]; rfl⟩
  cases l with
  | nil => cases h
  | cons x l =>
    have hx : x.cell = q.cell := Option.some.inj h
    obtain rfl | hq := List.mem_cons.1 hq
    · rfl
    · exact absurd (hx ▸ List.mem_map_of_mem hq) (List.nodup_cons.1 hnodup).1

theorem writeOf_cue {q : Cue} (hq : q ∈ f.unit.order) (hnodup : (f.unit.order.map Cue.cell).Nodup)
    (h : q.cell ∉ f.unit.stale) :
    let heard := some (if f.unit.order.head? = some q then f.unit.heard else 0)
    (∀ r, q.mark = some r → writeOf f q.cell = some ⟨q.cell, heard, .finished r⟩) ∧
    (q.mark = none → f.unit.order.head? = some q →
      (∀ r, f.ended = some r → writeOf f q.cell = some ⟨q.cell, heard, .finished r⟩) ∧
      (f.ended = none → writeOf f q.cell = f.showing.map fun s => ⟨q.cell, heard, .live s⟩)) ∧
    (q.mark = none → f.unit.order.head? ≠ some q → writeOf f q.cell = none) := by
  intro heard
  have hfirst := first_iff hq hnodup
  have hheard : some (if decide (f.unit.order.head?.map Cue.cell = some q.cell) = true then f.unit.heard else 0) = heard := by
    simp only [heard, decide_eq_true_eq, hfirst]
  unfold writeOf
  rw [if_neg (mt List.contains_iff_mem.1 h), find_cell hq hnodup]
  dsimp only
  rw [hheard]
  refine ⟨fun r hr => ?_, fun hmark hhead => ⟨fun r hr => ?_, fun hend => ?_⟩, fun hmark hhead => ?_⟩
  · rw [hr]
  · rw [hmark, decide_eq_true (hfirst.2 hhead), hr]
  · rw [hmark, decide_eq_true (hfirst.2 hhead), hend]
    cases f.showing <;> rfl
  · rw [hmark, decide_eq_false (hfirst.not.2 hhead)]

/-- A cell write is of the cell it is asked for. -/
theorem writeOf_cell {w : CellWrite} (h : writeOf f c = some w) : w.cell = c := by
  unfold writeOf at h
  split at h
  · cases h
    rfl
  · split at h
    · cases h
    · dsimp only at h
      split at h <;> cases h <;> rfl

/-! ## What a cell write leaves -/

theorem finished_word (r : Result) : (CellOutcome.finished r).word = BitVec.ofNat 32 (4 + 256 * r.encode) := by
  cases r <;> rfl

theorem live_word (s : CellState) : (CellOutcome.live s).word = BitVec.ofNat 32 s.encode := by
  cases s <;> rfl

/-- Whether the window takes the words of a cell write. -/
def fits (e : Env) (k : SeatNo) (c : CellNo) (samples : Option Nat) : Prop :=
  (e.lo ≤ cellAt e.area k c ∧ cellAt e.area k c + 4 ≤ e.hi) ∧
    (samples ≠ none → e.lo ≤ cellAt e.area k c + 12 ∧ cellAt e.area k c + 12 + 4 ≤ e.hi)

theorem mem_cellWords {samples : Option Nat} {w : Word} {x : Nat × Word} : x ∈ cellWords e k c samples w ↔
    (∃ n, samples = some n ∧ x = (cellAt e.area k c + 12, BitVec.ofNat 32 n)) ∨ x = (cellAt e.area k c, w) := by
  cases samples <;> simp [cellWords]

theorem cellWords_fit {samples : Option Nat} {w : Word} :
    (∀ x ∈ cellWords e k c samples w, e.lo ≤ x.1 ∧ x.1 + 4 ≤ e.hi) ↔ fits e k c samples := by
  cases samples with
  | none => simp [cellWords, fits]
  | some n => simp [cellWords, fits, and_comm]

theorem cellWords_apart (samples : Option Nat) (w : Word) :
    (cellWords e k c samples w).Pairwise fun x y => x.1 + 4 ≤ y.1 ∨ y.1 + 4 ≤ x.1 := by
  cases samples with
  | none => exact List.pairwise_singleton ..
  | some n =>
    refine List.pairwise_pair.2 (.inr ?_)
    show cellAt e.area k c + 4 ≤ cellAt e.area k c + 12
    omega

/-- What stands in a cell after a write of its samples played and its state word. -/
def Stands (e : Env) (k : SeatNo) (c : CellNo) (samples : Option Nat) (w : Word) (before m : List Host.Cell) : Prop :=
  (e.lo ≤ cellAt e.area k c ∧ cellAt e.area k c + 4 ≤ e.hi → readMemWord (cellAt e.area k c) m = w) ∧
  (∀ n, samples = some n → e.lo ≤ cellAt e.area k c + 12 ∧ cellAt e.area k c + 12 + 4 ≤ e.hi →
    readMemWord (cellAt e.area k c + 12) m = BitVec.ofNat 32 n) ∧
  ∀ a, ¬ ((e.lo ≤ cellAt e.area k c ∧ cellAt e.area k c + 4 ≤ e.hi) ∧ cellAt e.area k c ≤ a ∧ a < cellAt e.area k c + 4) →
    ¬ (samples ≠ none ∧ (e.lo ≤ cellAt e.area k c + 12 ∧ cellAt e.area k c + 12 + 4 ≤ e.hi) ∧
      cellAt e.area k c + 12 ≤ a ∧ a < cellAt e.area k c + 16) → readByte a m = readByte a before

section
variable (hwf : memoryWf io.mem = true) (hturns : io.turns = [])
include hturns

theorem writeCell_made (samples : Option Nat) (w : Word) :
    (writeRecord e (.seat k) (cellWords e k c samples w) io).1 = true ↔ fits e k c samples :=
  (writeRecord_quiet e (.seat k) _ hturns).1.trans cellWords_fit

/-- A cell write hands no PROMPT notice. -/
theorem writeCell_promptClass (samples : Option Nat) (w : Word) :
    (writeRecord e (.seat k) (cellWords e k c samples w) io).2.promptClass = io.promptClass := by
  obtain ⟨-, hio⟩ := writeRecord_quiet e (.seat k) (cellWords e k c samples w) hturns
  rw [hio]
  have hfault : ∀ n ∈ windowRefusal (.seat k) (refusedOf e (cellWords e k c samples w)), n.code.cls = .fault := by
    intro n hn
    obtain ⟨x, -, rfl⟩ : ∃ x, _ ∧ _ = n := by simpa [windowRefusal, Option.map_eq_some_iff] using hn
    rfl
  exact (handAll_waitsOf e hfault io).cls_ne (d := .prompt) nofun

include hwf

theorem writeCell_stands (samples : Option Nat) (w : Word) :
    Stands e k c samples w io.mem (writeRecord e (.seat k) (cellWords e k c samples w) io).2.mem := by
  obtain ⟨-, hio⟩ := writeRecord_quiet e (.seat k) (cellWords e k c samples w) hturns
  rw [hio]
  obtain ⟨hread, hother⟩ := putWords_sublist hwf (insideOf_sublist e (cellWords e k c samples w)) (cellWords_apart samples w)
  refine ⟨fun hin => hread (cellAt e.area k c, w) (mem_insideOf.2 ⟨mem_cellWords.2 (.inr rfl), hin⟩), fun n hn hin =>
    hread (cellAt e.area k c + 12, BitVec.ofNat 32 n) (mem_insideOf.2 ⟨mem_cellWords.2 (.inl ⟨n, hn, rfl⟩), hin⟩),
    fun a hstate hsamples => hother a fun x hx => ?_⟩
  obtain ⟨hx, hin⟩ := mem_insideOf.1 hx
  obtain ⟨n, hn, rfl⟩ | rfl := mem_cellWords.1 hx
  · by_contra hat
    exact hsamples ⟨by simp [hn], hin, by omega, by omega⟩
  · by_contra hat
    exact hstate ⟨hin, by omega, by omega⟩

end

/-! ## A cell write, and a retry -/

theorem makeWrite_live {w : CellWrite} {s : CellState} (h : w.outcome = .live s) : makeWrite e k (p, io) w =
    (if (writeRecord e (.seat k) (cellWords e k w.cell w.samples w.outcome.word) io).1 = true then
      { p with order := p.order.map fun q => if q.cell = w.cell then { q with expected := s } else q } else p,
     (writeRecord e (.seat k) (cellWords e k w.cell w.samples w.outcome.word) io).2) := by
  unfold makeWrite
  simp only [h]

theorem makeWrite_finished {w : CellWrite} {r : Result} (h : w.outcome = .finished r) : makeWrite e k (p, io) w =
    (if (writeRecord e (.seat k) (cellWords e k w.cell w.samples w.outcome.word) io).1 = true then p
      else { p with owed := p.owed ++ [⟨w.cell, r, w.samples⟩] },
     if r = .played ∨ r = .failed then
      hand e .promptDone (.seat k) (BitVec.ofNat 32 w.cell.val) p.tag 0
        (writeRecord e (.seat k) (cellWords e k w.cell w.samples w.outcome.word) io).2
     else (writeRecord e (.seat k) (cellWords e k w.cell w.samples w.outcome.word) io).2) := by
  unfold makeWrite
  simp only [h]
  rfl

/-- A cell write's notice leaves memory as the write has. -/
theorem makeWrite_mem (w : CellWrite) : (makeWrite e k (p, io) w).2.mem =
    (writeRecord e (.seat k) (cellWords e k w.cell w.samples w.outcome.word) io).2.mem := by
  cases h : w.outcome with
  | live s => rw [makeWrite_live h, h]
  | finished r =>
    rw [makeWrite_finished h, h]
    dsimp only
    split
    · exact hand_mem ..
    · rfl

/-- The notice of a class depends on that class alone. -/
theorem hand_promptDone {io io' : Io} (h : io.promptClass = io'.promptClass) (d0 d1 : Word) :
    (hand e .promptDone (.seat k) d0 d1 0 io).promptClass = (hand e .promptDone (.seat k) d0 d1 0 io').promptClass := by
  have hcls : io.cls .prompt = io'.cls .prompt := h
  have hhand := hand_cls e .promptDone (.seat k) d0 d1 0 io .prompt
  rw [hcls, ← hand_cls] at hhand
  exact hhand

theorem makeWrite_promptClass (hturns : io.turns = []) (w : CellWrite) : (makeWrite e k (p, io) w).2.promptClass =
    if w.outcome = .finished .played ∨ w.outcome = .finished .failed then
      (hand e .promptDone (.seat k) (BitVec.ofNat 32 w.cell.val) p.tag 0 io).promptClass else io.promptClass := by
  have hwrite := writeCell_promptClass (e := e) (k := k) (c := w.cell) hturns w.samples w.outcome.word
  cases h : w.outcome with
  | live s =>
    rw [makeWrite_live h]
    exact hwrite.trans (if_neg (by simp)).symm
  | finished r =>
    have hfinal : (CellOutcome.finished r = .finished .played ∨ CellOutcome.finished r = .finished .failed) ↔
        (r = .played ∨ r = .failed) := by simp
    rw [makeWrite_finished h]
    dsimp only
    by_cases hr : r = .played ∨ r = .failed
    · rw [if_pos hr, if_pos (hfinal.2 hr)]
      exact hand_promptDone hwrite ..
    · rw [if_neg hr, if_neg (hfinal.not.2 hr)]
      exact hwrite

/-! ## The end of a frame -/

/-- The cells that the writes of a frame finish. -/
def finishedCells (f : PromptFrame) : List CellNo := ((cells.filterMap (writeOf f)).filter CellWrite.finishes).map CellWrite.cell

theorem mem_finishedCells (c : CellNo) :
    (finishedCells f).contains c = true ↔ ∃ w, writeOf f c = some w ∧ ∃ r, w.outcome = .finished r := by
  have hall (c : CellNo) : c ∈ cells := by
    revert c
    decide
  have hfinishes (w : CellWrite) : w.finishes = true ↔ ∃ r, w.outcome = .finished r := by
    unfold CellWrite.finishes
    cases w.outcome <;> simp
  simp only [finishedCells, List.contains_iff_mem, List.mem_map, List.mem_filter, List.mem_filterMap, hfinishes]
  constructor
  · rintro ⟨w, ⟨⟨d, -, hw⟩, hfin⟩, rfl⟩
    exact ⟨w, by rw [writeOf_cell hw]; exact hw, hfin⟩
  · rintro ⟨w, hw, hfin⟩
    exact ⟨w, ⟨⟨c, hall c, hw⟩, hfin⟩, writeOf_cell hw⟩

/-- The writes change the owed writes and what the cells of the order are expected to show. -/
theorem writes_unit (e : Env) (k : SeatNo) (ws : List CellWrite) {x : PromptUnit × Io} {q : PromptUnit}
    (h : x.1 = { q with order := x.1.order, owed := x.1.owed } ∧ x.1.order.map Cue.cell = q.order.map Cue.cell) :
    let y := ws.foldl (makeWrite e k) x
    y.1 = { q with order := y.1.order, owed := y.1.owed } ∧ y.1.order.map Cue.cell = q.order.map Cue.cell := by
  refine List.foldlRecOn ws (makeWrite e k)
    (motive := fun y => y.1 = { q with order := y.1.order, owed := y.1.owed } ∧
      y.1.order.map Cue.cell = q.order.map Cue.cell) h fun y hy w _ => ?_
  obtain ⟨hunit, hcells⟩ := hy
  obtain ⟨owed, hmade⟩ | ⟨s, -, hmade⟩ := makeWrite_unit e k y w
  · rw [hmade]
    exact ⟨by rw [hunit], hcells⟩
  · rw [hmade]
    refine ⟨by rw [hunit], ?_⟩
    rw [← hcells, List.map_map]
    refine List.map_congr_left fun r _ => ?_
    rw [Function.comp_apply]
    split <;> rfl

/-- Removing cells keeps the unit when the first cell stays, and makes a new first cell not prepared when it goes. -/
theorem removeCells_eq (gone : List CellNo) (q : PromptUnit) :
    removeCells gone q = if (∀ c, q.order.head?.map Cue.cell = some c → gone.contains c = false) then
        { q with order := q.order.filter fun r => !gone.contains r.cell, stale := [] }
      else { q with
        order := q.order.filter fun r => !gone.contains r.cell
        stale := [], stage := .fresh, clip := none, buffer := silence, filled := 0, last := false } := by
  have hhead : (q.order.filter fun r => !gone.contains r.cell).head?.map Cue.cell = q.order.head?.map Cue.cell ↔
      ∀ c, q.order.head?.map Cue.cell = some c → gone.contains c = false := by
    cases horder : q.order with
    | nil => simp
    | cons x l =>
      cases hx : gone.contains x.cell with
      | false =>
        simp only [List.filter_cons, hx]
        simpa using hx
      | true =>
        have hne (o : Option Cue) (ho : ∀ y, o = some y → gone.contains y.cell = false) :
            o.map Cue.cell ≠ some x.cell := by
          rintro heq
          obtain ⟨y, hy, hcell⟩ := Option.map_eq_some_iff.1 heq
          have := ho y hy
          rw [hcell, hx] at this
          cases this
        have hno := hne (l.filter fun r => !gone.contains r.cell).head? fun y hy => by
          have := (List.mem_filter.1 (List.mem_of_head? hy)).2
          simpa using this
        simp only [List.filter_cons, hx, Bool.not_true, Bool.false_eq_true, reduceIte, List.head?_cons, Option.map_some]
        refine ⟨fun h => absurd h hno, fun h => ?_⟩
        have := h x.cell rfl
        rw [hx] at this
        cases this
  unfold removeCells
  dsimp only
  exact if_congr hhead rfl rfl

theorem endCells_eq (e : Env) (k : SeatNo) (f : PromptFrame) :
    let x := (cells.filterMap (writeOf f)).foldl (makeWrite e k) (retryCells e k f.unit f.io)
    endCells e k f = (removeCells (finishedCells f) x.1, x.2) := rfl

/-- Settles O57, part by part: holding and playing, fetches, preparation, the scan, and the writes. -/
theorem promptPlaysOrWaits : Obligations.PromptPlaysOrWaits := by
  refine ⟨fun e k p io h => promptFrame_held e k io h, ?plays, ?fetch, ?prepare, decodeCell_encode, ?scan, ?writes, ?made,
    ?ends⟩
  case plays =>
    intro e k p io x q rest horder hdue hclip c played' r
    refine ⟨promptFrame_heard horder hdue hclip e k io, fun hlast => ?_, fun hlast => ?_⟩
    · rw [promptFrame_plays horder hdue hclip, if_pos hlast]
      rfl
    · rw [promptFrame_plays horder hdue hclip, if_neg (by simp [hlast])]
      rfl
  case fetch =>
    intro e k cell c p io full n at'
    refine ⟨fun hturns => ?_, fun m hm hturns => fetchClip_fails e k cell c p hm hturns⟩
    rw [fetchClip_calm e k cell c p (hturns ▸ calm_nil _), after_of_nil hturns]
    rfl
  case prepare =>
    intro e k plays p io
    refine ⟨fun horder => ?empty, fun q rest horder => ?first⟩
    case empty => simp only [promptFrame, horder]
    case first =>
      intro cell word index entry length kept c
      refine ⟨fun hmark hstage => promptFrame_left horder hmark hstage e k plays io, fun hmark hfresh hturns => ?quiet,
        fun m a hmark hfresh hturns hat => ?failed, fun x hmark hagain hclip => ?again⟩
      case quiet =>
        have hprepare := prepareCell_quiet (e := e) (k := k) (cell := q.cell) (p := p) hturns
        rw [promptFrame_fresh horder hmark hfresh, hprepare]
        refine ⟨fun hbad => ?_, fun hindex hlo hhi => ?_⟩
        · rw [if_pos hbad]
          rfl
        · have hgood : ¬ (63 < index ∨ length = 0 ∨ 16777215 < length) := by omega
          rw [if_neg hgood]
          exact fetchClip_outcome e k q.cell c _ hturns
      case failed =>
        rw [promptFrame_fresh horder hmark hfresh]
        obtain ⟨rfl, rfl⟩ | ⟨rfl, rfl⟩ | ⟨hlo, hhi, hindex, rfl⟩ := hat
        · rw [prepareCell_fails (by decide) hturns]
          rfl
        · rw [prepareCell_fails (by decide) hturns]
          rfl
        · obtain ⟨d, rfl⟩ : ∃ d, m = d + 2 := ⟨m - 2, by omega⟩
          rw [prepareCell_entryFails (by omega) hindex hturns, if_neg (by omega)]
          rfl
      case again =>
        rw [promptFrame_again horder hmark hagain hclip]
        rfl
  case scan =>
    intro e k p io c found
    refine ⟨rfl, scanCell_owed, fun howed hturns => scanCell_failed howed hturns, fun howed hturns => ?_⟩
    rw [scanCell_read howed hturns]
    refine ⟨fun hnew => by rw [scanState_new _ hnew], ?_⟩
    rintro q hq rfl hnodup
    rw [scanState_held _ hq hnodup]
  case writes =>
    intro f c hnodup
    refine ⟨writeOf_stale, writeOf_none, ?_⟩
    rintro q hq rfl hstale
    exact writeOf_cue hq hnodup hstale
  case made =>
    intro e k p io w o hwf hturns r again inside fits' stands final
    have hmade (c : CellNo) (samples : Option Nat) (x : Word) := writeCell_made (e := e) (k := k) (c := c) hturns samples x
    have hstands (c : CellNo) (samples : Option Nat) (x : Word) :=
      writeCell_stands (e := e) (k := k) (c := c) hwf hturns samples x
    refine ⟨makeWrite_promptClass hturns w, fun s hs => ?_, fun res hres => ?_, ?_, fun s hs => ?_, fun res hres => ?_, ?_⟩
    · show (makeWrite e k (p, io) w).1 = _
      rw [makeWrite_live hs]
      exact if_congr (hmade ..) rfl rfl
    · show (makeWrite e k (p, io) w).1 = _
      rw [makeWrite_finished hres]
      exact if_congr (hmade ..) rfl rfl
    · exact if_congr (hmade ..) rfl rfl
    · have h := hstands w.cell w.samples w.outcome.word
      rw [← makeWrite_mem (p := p), hs, live_word] at h
      exact h
    · have h := hstands w.cell w.samples w.outcome.word
      rw [← makeWrite_mem (p := p), hres, finished_word] at h
      exact h
    · have h := hstands o.cell o.samples (CellOutcome.finished o.result).word
      exact ⟨fun hin => (h.1 hin).trans (finished_word o.result), h.2⟩
  case ends =>
    intro e k f gone retried x u first
    obtain ⟨hunit, hcells⟩ : x.1 = { f.unit with order := x.1.order, owed := x.1.owed } ∧
        x.1.order.map Cue.cell = f.unit.order.map Cue.cell := by
      refine writes_unit e k _ ?_
      obtain ⟨owed, hretried⟩ := retryCells_unit e k f.unit f.io
      have hretried : retried.1 = { f.unit with owed := owed } := hretried
      exact ⟨by rw [hretried], by rw [hretried]⟩
    have hu : u = removeCells (finishedCells f) x.1 := rfl
    have hfirst : x.1.order.head?.map Cue.cell = first := by
      rw [← List.head?_map, hcells, List.head?_map]
    rw [removeCells_eq, hfirst] at hu
    have hgone (c : CellNo) : (finishedCells f).contains c = true ↔ gone c := mem_finishedCells c
    have hstay : (∀ c, first = some c → (finishedCells f).contains c = false) ↔ ∀ c, first = some c → ¬ gone c :=
      forall₂_congr fun c _ => by rw [← hgone, Bool.not_eq_true]
    have horder : u.order = x.1.order.filter fun r => !(finishedCells f).contains r.cell := by
      rw [hu]
      split <;> rfl
    refine ⟨rfl, ?_, ?_, fun q => ?_, hcells, fun c hc hcgone => ?_, fun hstays => ?_⟩
    · rw [hu]
      split <;> rfl
    · rw [horder]
      exact List.filter_sublist
    · rw [horder, List.mem_filter, ← hgone, Bool.not_eq_true, Bool.not_eq_true']
    · rw [if_neg fun h => hstay.1 h c hc hcgone] at hu
      rw [horder, hu, hunit]
    · rw [if_pos (hstay.2 hstays)] at hu
      rw [horder, hu, hunit]

end Sys2Proof.CueCells
end

section
/-! The works of a frame unit by unit (8.1, 10.3): in whatever order the units take the bus, each does its work once, on its
own seat or stream as it stood and on the bus as it finds it. -/

namespace Sys2Proof.FrameUnits

open Sys2Proof.Machine Sys2Proof.Laws

/-! ## The order of the units -/

theorem nodup_eraseDups (l : List Worker) : l.eraseDups.Nodup := by
  induction hn : l.length using Nat.strong_induction_on generalizing l with
  | h n ih =>
    cases l with
    | nil => exact List.nodup_nil
    | cons w l =>
      have hlen := List.length_filter_le (fun b => !b == w) l
      rw [List.length_cons] at hn
      rw [List.eraseDups_cons, List.nodup_cons]
      refine ⟨fun hw => ?_, ih _ (by omega) _ rfl⟩
      have := (List.mem_filter.1 (List.mem_eraseDups.1 hw)).2
      simp at this

theorem workersOf_nodup (order : List Worker) : (workersOf order).Nodup := nodup_eraseDups _

theorem mem_workersOf (order : List Worker) (w : Worker) : w ∈ workersOf order := by
  rw [workersOf, List.mem_eraseDups]
  cases w with
  | seat k => simp [List.mem_finRange]
  | stream j => simp [List.mem_finRange]

theorem workersOf_head {order : List Worker} {w : Worker} (h : order.head? = some w) :
    (workersOf order).head? = some w := by
  cases order with
  | nil => cases h
  | cons v order =>
    cases h
    rw [workersOf, List.cons_append, List.cons_append, List.eraseDups_cons]
    rfl

/-- A unit's place in the order; it is the first place when the command's order begins with the unit. -/
theorem workersOf_split (order : List Worker) (w : Worker) : ∃ before after, workersOf order = before ++ w :: after ∧
    w ∉ before ∧ w ∉ after ∧ (order.head? = some w → before = []) := by
  obtain ⟨before, after, hsplit⟩ := List.append_of_mem (mem_workersOf order w)
  have hnodup := workersOf_nodup order
  rw [hsplit, List.nodup_middle, List.nodup_cons, List.mem_append, not_or] at hnodup
  obtain ⟨⟨hbefore, hafter⟩, -⟩ := hnodup
  refine ⟨before, after, hsplit, hbefore, hafter, fun hhead => ?_⟩
  cases before with
  | nil => rfl
  | cons v before =>
    have hfirst := workersOf_head hhead
    rw [hsplit, List.cons_append, List.head?_cons] at hfirst
    exact absurd (Option.some.inj hfirst ▸ List.mem_cons_self) hbefore

/-! ## One pass over the units -/

/-- One unit's part of a pass, in which each seat and each stream works on itself and on the bus. -/
def doUnit (seat : SeatNo → Seat → Io → Seat × Io) (stream : StreamNo → Stream → Io → Stream × Io) (s : State) :
    Worker → State
  | .seat k => { s with seats := s.seats.set k (seat k s.seats[k] s.io).1, io := (seat k s.seats[k] s.io).2 }
  | .stream j => { s with streams := s.streams.set j (stream j s.streams[j] s.io).1, io := (stream j s.streams[j] s.io).2 }

section
variable {seat : SeatNo → Seat → Io → Seat × Io} {stream : StreamNo → Stream → Io → Stream × Io} {s : State}
  {l before after : List Worker} {k : SeatNo} {j : StreamNo}

theorem foldl_doUnit_state (l : List Worker) (s : State) :
    l.foldl (doUnit seat stream) s = { s with
      seats := (l.foldl (doUnit seat stream) s).seats, streams := (l.foldl (doUnit seat stream) s).streams
      io := (l.foldl (doUnit seat stream) s).io } := by
  induction l generalizing s with
  | nil => rfl
  | cons w l ih =>
    rw [List.foldl_cons]
    refine (ih (doUnit seat stream s w)).trans ?_
    cases w <;> rfl

theorem doUnit_seat_other {w : Worker} (h : w ≠ .seat k) : (doUnit seat stream s w).seats[k] = s.seats[k] := by
  cases w with
  | stream j => rfl
  | seat i =>
    have hne : i ≠ k := fun heq => h (heq ▸ rfl)
    exact (modSeat_get s i k fun _ => (seat i s.seats[i] s.io).1).trans (if_neg hne)

theorem doUnit_stream_other {w : Worker} (h : w ≠ .stream j) : (doUnit seat stream s w).streams[j] = s.streams[j] := by
  cases w with
  | seat k => rfl
  | stream i =>
    have hne : i ≠ j := fun heq => h (heq ▸ rfl)
    exact (modStream_get s i j fun _ => (stream i s.streams[i] s.io).1).trans (if_neg hne)

theorem foldl_doUnit_seat_other (h : .seat k ∉ l) : (l.foldl (doUnit seat stream) s).seats[k] = s.seats[k] :=
  List.foldlRecOn l (doUnit seat stream) (motive := fun t => t.seats[k] = s.seats[k]) rfl fun _ ht _ hw =>
    (doUnit_seat_other fun heq => h (heq ▸ hw)).trans ht

theorem foldl_doUnit_stream_other (h : .stream j ∉ l) : (l.foldl (doUnit seat stream) s).streams[j] = s.streams[j] :=
  List.foldlRecOn l (doUnit seat stream) (motive := fun t => t.streams[j] = s.streams[j]) rfl fun _ ht _ hw =>
    (doUnit_stream_other fun heq => h (heq ▸ hw)).trans ht

/-- The state that a pass has given before a unit's turn. -/
abbrev upTo (seat : SeatNo → Seat → Io → Seat × Io) (stream : StreamNo → Stream → Io → Stream × Io) (s : State)
    (before : List Worker) : State := before.foldl (doUnit seat stream) s

theorem doUnit_seat_own (k : SeatNo) : (doUnit seat stream s (.seat k)).seats[k] = (seat k s.seats[k] s.io).1 :=
  (modSeat_get s k k fun _ => (seat k s.seats[k] s.io).1).trans (if_pos rfl)

theorem doUnit_stream_own (j : StreamNo) :
    (doUnit seat stream s (.stream j)).streams[j] = (stream j s.streams[j] s.io).1 :=
  (modStream_get s j j fun _ => (stream j s.streams[j] s.io).1).trans (if_pos rfl)

/-- A seat in its place of a pass: its work on itself as it stood, on the bus as its turn finds it. -/
theorem foldl_doUnit_seat (hbefore : .seat k ∉ before) (hafter : .seat k ∉ after) :
    ((before ++ .seat k :: after).foldl (doUnit seat stream) s).seats[k] =
      (seat k s.seats[k] (upTo seat stream s before).io).1 := by
  rw [List.foldl_append, List.foldl_cons, foldl_doUnit_seat_other hafter, doUnit_seat_own,
    foldl_doUnit_seat_other hbefore]

theorem foldl_doUnit_stream (hbefore : .stream j ∉ before) (hafter : .stream j ∉ after) :
    ((before ++ .stream j :: after).foldl (doUnit seat stream) s).streams[j] =
      (stream j s.streams[j] (upTo seat stream s before).io).1 := by
  rw [List.foldl_append, List.foldl_cons, foldl_doUnit_stream_other hafter, doUnit_stream_own,
    foldl_doUnit_stream_other hbefore]

end

/-! ## The passes of a frame of work -/

/-- What a seat does in a frame of work, in service or out of it. -/
def seatResult (u : State) (k : SeatNo) (x : Seat) (io : Io) : Seat × Io :=
  if k.val < u.header.serving then frameWorkSeat u.env k (fun j => u.seats[j].kept) (seatInputs u k) x io
  else idleSeat u.env k x io

/-- What a stream's report does. -/
def reportResult (u : State) (j : StreamNo) (st : Stream) (io : Io) : Stream × Io :=
  (st, if u.header.silent = true then io else writeStreamReport u.env j st io)

/-- The pass of the works. -/
def worksPass (u : State) : State → Worker → State := doUnit (seatResult u) (fetchStream u.env)

/-- The pass of the write-backs. -/
def backsPass (u : State) : State → Worker → State := doUnit (fun _ x io => (x, io)) (writeBacks u.env)

/-- The pass of the stream reports. -/
def reportsPass (u : State) : State → Worker → State := doUnit (fun _ x io => (x, io)) (reportResult u)

/-- A state that differs from another in its seats, its streams and its bus side alone. -/
def Within (u s : State) : Prop := s = { u with seats := s.seats, streams := s.streams, io := s.io }

variable {u s : State}

theorem Within.env (h : Within u s) : s.env = u.env := by
  rw [Within] at h
  rw [h]
  rfl

theorem Within.header (h : Within u s) : s.header = u.header := by
  rw [Within] at h
  rw [h]

theorem Within.doUnit {seat : SeatNo → Seat → Io → Seat × Io} {stream : StreamNo → Stream → Io → Stream × Io}
    (h : Within u s) (w : Worker) : Within u (FrameUnits.doUnit seat stream s w) := by
  rw [Within] at h
  rw [h]
  cases w <;> rfl

/-- Passes that agree on states that differ from `u` in these parts alone, agree. -/
theorem foldl_pass {f g : State → Worker → State} (hf : ∀ s w, Within u s → f s w = g s w)
    (hg : ∀ s w, Within u s → Within u (g s w)) (l : List Worker) (hs : Within u s) :
    l.foldl f s = l.foldl g s ∧ Within u (l.foldl g s) := by
  induction l generalizing s with
  | nil => exact ⟨rfl, hs⟩
  | cons w l ih =>
    obtain ⟨heq, hin⟩ := ih (hg s w hs)
    rw [List.foldl_cons, List.foldl_cons, hf s w hs]
    exact ⟨heq, hin⟩

theorem unitWork_pass (w : Worker) (h : Within u s) : unitWork u s w = worksPass u s w := by
  cases w with
  | seat k =>
    have hresult : (if k.val < s.header.serving then
          frameWorkSeat s.env k (fun j => u.seats[j].kept) (seatInputs u k) s.seats[k] s.io
        else idleSeat s.env k s.seats[k] s.io) = seatResult u k s.seats[k] s.io := by
      rw [h.env, h.header]
      rfl
    exact congrArg (fun r : Seat × Io => { s with seats := s.seats.set k r.1, io := r.2 }) hresult
  | stream j =>
    unfold worksPass unitWork streamWork
    rw [h.env]
    rfl

theorem set_own (s : State) (k : SeatNo) : { s with seats := s.seats.set k s.seats[k] } = s := by
  have hsame : s.seats.set k s.seats[k] = s.seats := Vector.set_getElem_self ..
  rw [hsame]

theorem set_own_stream (s : State) (j : StreamNo) : { s with streams := s.streams.set j s.streams[j] } = s := by
  have hsame : s.streams.set j s.streams[j] = s.streams := Vector.set_getElem_self ..
  rw [hsame]

theorem unitBacks_pass (w : Worker) (h : Within u s) : unitBacks s w = backsPass u s w := by
  cases w with
  | seat k => exact (set_own s k).symm
  | stream j =>
    unfold backsPass unitBacks
    rw [h.env]
    rfl

theorem unitReport_pass (w : Worker) (h : Within u s) : unitReport s w = reportsPass u s w := by
  cases w with
  | seat k => exact (set_own s k).symm
  | stream j =>
    have hreport : reportsPass u s (.stream j) = s.setIo (reportResult u j s.streams[j] s.io).2 :=
      congrArg (fun t : State => t.setIo (reportResult u j s.streams[j] s.io).2) (set_own_stream s j)
    unfold unitReport
    dsimp only
    rw [hreport, reportResult, h.env, h.header]
    split <;> rfl

/-- The state after the works. -/
def worked (u : State) (order : List Worker) : State := (workersOf order).foldl (worksPass u) u

/-- The state after the write-backs. -/
def backed (u : State) (order : List Worker) : State := (workersOf order).foldl (backsPass u) (worked u order)

/-- The state after the stream reports. -/
def reported (u : State) (order : List Worker) : State := (workersOf order).foldl (reportsPass u) (backed u order)

theorem worked_within (u : State) (order : List Worker) :
    (workersOf order).foldl (unitWork u) u = worked u order ∧ Within u (worked u order) :=
  foldl_pass (fun _ w h => unitWork_pass w h) (fun _ w h => h.doUnit w) _ rfl

theorem backed_within (u : State) (order : List Worker) :
    (workersOf order).foldl unitBacks (worked u order) = backed u order ∧ Within u (backed u order) :=
  foldl_pass (fun _ w h => unitBacks_pass w h) (fun _ w h => h.doUnit w) _ (worked_within u order).2

theorem reported_within (u : State) (order : List Worker) :
    (workersOf order).foldl unitReport (backed u order) = reported u order ∧ Within u (reported u order) :=
  foldl_pass (fun _ w h => unitReport_pass w h) (fun _ w h => h.doUnit w) _ (backed_within u order).2

/-! ## What a frame of work gives -/

theorem worked_seat (u : State) (order : List Worker) (k : SeatNo) :
    ∃ io, (order.head? = some (.seat k) → io = u.io) ∧ (worked u order).seats[k] = (seatResult u k u.seats[k] io).1 := by
  obtain ⟨before, after, hsplit, hbefore, hafter, hhead⟩ := workersOf_split order (.seat k)
  refine ⟨(upTo (seatResult u) (fetchStream u.env) u before).io, fun h => by rw [hhead h]; rfl, ?_⟩
  rw [worked, hsplit]
  exact foldl_doUnit_seat hbefore hafter

theorem worked_stream (u : State) (order : List Worker) (j : StreamNo) :
    ∃ io, (order.head? = some (.stream j) → io = u.io) ∧
      (worked u order).streams[j] = (fetchStream u.env j u.streams[j] io).1 := by
  obtain ⟨before, after, hsplit, hbefore, hafter, hhead⟩ := workersOf_split order (.stream j)
  refine ⟨(upTo (seatResult u) (fetchStream u.env) u before).io, fun h => by rw [hhead h]; rfl, ?_⟩
  rw [worked, hsplit]
  exact foldl_doUnit_stream hbefore hafter

/-- The passes of write-backs and reports leave the seats. -/
theorem foldl_doUnit_seats_stand {stream : StreamNo → Stream → Io → Stream × Io} (l : List Worker) (s : State) (k : SeatNo) :
    (l.foldl (doUnit (fun _ x io => (x, io)) stream) s).seats[k] = s.seats[k] := by
  refine List.foldlRecOn l (doUnit _ stream) (motive := fun t => t.seats[k] = s.seats[k]) rfl fun t ht w _ => ?_
  cases w with
  | seat i =>
    by_cases heq : i = k
    · subst heq
      exact (doUnit_seat_own i).trans ht
    · exact (doUnit_seat_other fun h => heq (Worker.seat.inj h)).trans ht
  | stream j => exact ht

theorem reported_seats (u : State) (order : List Worker) (k : SeatNo) :
    (reported u order).seats[k] = (worked u order).seats[k] :=
  (foldl_doUnit_seats_stand ..).trans (foldl_doUnit_seats_stand ..)

theorem backed_stream (u : State) (order : List Worker) (j : StreamNo) :
    ∃ io, (backed u order).streams[j] = (writeBacks u.env j (worked u order).streams[j] io).1 := by
  obtain ⟨before, after, hsplit, hbefore, hafter, -⟩ := workersOf_split order (.stream j)
  refine ⟨(upTo (fun _ x io => (x, io)) (writeBacks u.env) (worked u order) before).io, ?_⟩
  rw [backed, hsplit]
  exact foldl_doUnit_stream hbefore hafter

theorem reported_streams (u : State) (order : List Worker) (j : StreamNo) :
    (reported u order).streams[j] = (backed u order).streams[j] := by
  refine List.foldlRecOn (workersOf order) (reportsPass u)
    (motive := fun t => t.streams[j] = (backed u order).streams[j]) rfl fun t ht w _ => ?_
  cases w with
  | seat k => exact ht
  | stream i =>
    by_cases heq : i = j
    · subst heq
      exact (doUnit_stream_own i).trans ht
    · exact (doUnit_stream_other fun h => heq (Worker.stream.inj h)).trans ht

/-- The bus side once the part tick word has been written. -/
def ticked (u : State) (order : List Worker) : Io :=
  (writeRecord u.env .header [(u.area.toNat + 0x28, u.frame)] (reported u order).io).2

/-- A frame of work: the works, the write-backs and the reports, the part tick word, the held reads and the serving. -/
theorem frameWork_eq (u : State) (order : List Worker) : u.frameWork order = { u with
    tick := u.tick.endFrame, seats := (reported u order).seats, streams := (reported u order).streams
    io := serveNotices u.env (heldReads u.env (ticked u order)) } := by
  obtain ⟨hworked, -⟩ := worked_within u order
  obtain ⟨hbacked, -⟩ := backed_within u order
  obtain ⟨hreported, hin⟩ := reported_within u order
  unfold State.frameWork ticked
  dsimp only
  rw [hworked, hbacked, hreported]
  generalize reported u order = t at hin ⊢
  rw [Within] at hin
  rw [hin]
  rfl

end Sys2Proof.FrameUnits
end

section
/-! The SEAT class in a frame of work: of all that the units do on the bus, the seats' audio work alone hands SEAT notices
(11.1). -/

namespace Sys2Proof.SeatNotices

open Sys2Proof.Machine Sys2Proof.Laws Sys2Proof.BusSide Sys2Proof.FrameUnits

variable {io : Io}

theorem foldl_seatClass {α β : Type} {f : β → α → β} {g : β → Io} (h : ∀ b a, (g (f b a)).seatClass = (g b).seatClass)
    (l : List α) (b : β) : (g (l.foldl f b)).seatClass = (g b).seatClass :=
  List.foldlRecOn l f (motive := fun c => (g c).seatClass = (g b).seatClass) rfl fun c hc a _ => (h c a).trans hc

/-! ## Accesses and record writes -/

theorem hand_seatClass (e : Env) {c : Code} (h : c.cls ≠ .seat) (src : Source) (d0 d1 d2 : Word) (io : Io) :
    (hand e c src d0 d1 d2 io).seatClass = io.seatClass :=
  (hand_cls e c src d0 d1 d2 io .seat).trans (if_neg fun hc => h hc.2.symm)

theorem takeTurn_seatClass (io : Io) : (takeTurn io).2.seatClass = io.seatClass := takeTurn_cls io .seat

@[simp] theorem readWord_seatClass (a : Nat) (io : Io) : (readWord a io).2.seatClass = io.seatClass :=
  takeTurn_seatClass io

@[simp] theorem readHalf_seatClass (a : Nat) (io : Io) : (readHalf a io).2.seatClass = io.seatClass :=
  takeTurn_seatClass io

@[simp] theorem readReporting_seatClass (e : Env) (src : Source) (d : Word) (a : Nat) (io : Io) :
    (readReporting e src d a io).2.seatClass = io.seatClass := by
  unfold readReporting
  dsimp only
  split
  · rw [hand_seatClass e (by decide), readWord_seatClass]
  · exact readWord_seatClass a io

@[simp] theorem writeRecord_seatClass (e : Env) (src : Source) (ws : List (Nat × Word)) (io : Io) :
    (writeRecord e src ws io).2.seatClass = io.seatClass := by
  obtain ⟨-, hio, -⟩ := writeRecord_spec e src ws io
  rw [hio]
  refine (handAll_waitsOf (c := .fault) e (fun n hn => ?_) io).cls_ne (d := .seat) nofun
  obtain hn | hn := List.mem_append.1 hn
  · obtain ⟨a, -, rfl⟩ := List.mem_map.1 hn
    rfl
  · obtain ⟨x, -, rfl⟩ : ∃ x, _ ∧ _ = n := by simpa [windowRefusal, Option.map_eq_some_iff] using hn
    rfl

/-! ## The fetch and the write-backs of a stream -/

section
variable (e : Env) (j : StreamNo) (g : Segment) (f : Fetch)

@[simp] theorem failure_seatClass (a : Nat) : (f.failure e j g a).io.seatClass = f.io.seatClass := by
  unfold Fetch.failure
  split
  · rfl
  · exact hand_seatClass e (by decide) ..

theorem post_seatClass {c : Code} (h : c.cls ≠ .seat) (d0 d1 : Word) : (f.post e j c d0 d1).io.seatClass = f.io.seatClass :=
  hand_seatClass e h ..

@[simp] theorem judgeSegment_seatClass (count address : Word) :
    (judgeSegment e j g count address f).2.io.seatClass = f.io.seatClass := by
  unfold judgeSegment
  split
  · dsimp only
    split
    · rfl
    · exact post_seatClass e j f (by decide) ..
  · rfl

@[simp] theorem readSegment_seatClass : (readSegment e j g f).2.io.seatClass = f.io.seatClass := by
  unfold readSegment
  split
  · rfl
  · dsimp only
    split <;> simp

@[simp] theorem endOneShot_seatClass : (endOneShot e j g f).io.seatClass = f.io.seatClass := by
  have hread : (readSegment e j g.other { f.post e j .segmentDone g.word 0 with ended := g :: f.ended }).2.io.seatClass =
      f.io.seatClass := (readSegment_seatClass ..).trans (post_seatClass e j f (by decide) ..)
  unfold endOneShot
  dsimp only
  split
  · exact hread
  · exact (hand_seatClass e (by decide) ..).trans hread

@[simp] theorem endPass_seatClass (start : Word) (length : Nat) :
    (endPass e j g start length f).io.seatClass = f.io.seatClass := by
  unfold endPass
  dsimp only
  split
  · exact (hand_seatClass e (by decide) ..).trans (readSegment_seatClass ..)
  · exact readSegment_seatClass ..

@[simp] theorem readSample_seatClass (a : Nat) : (readSample e j g a f).io.seatClass = f.io.seatClass := by
  unfold readSample
  dsimp only
  split <;> simp

@[simp] theorem consume_seatClass : (consume e j f).io.seatClass = f.io.seatClass := by
  unfold consume
  split
  · rfl
  · dsimp only
    split
    · exact (endOneShot_seatClass ..).trans (readSample_seatClass ..)
    · exact readSample_seatClass ..
  · dsimp only
    split
    · exact (endPass_seatClass ..).trans (readSample_seatClass ..)
    · exact readSample_seatClass ..

theorem consumeMany_seatClass (n : Nat) : (consumeMany e j n f).io.seatClass = f.io.seatClass := by
  induction n generalizing f with
  | zero => rfl
  | succ n ih => exact (ih _).trans (consume_seatClass e j f)

@[simp] theorem startFetch_seatClass : (startFetch e j f).io.seatClass = f.io.seatClass := by
  have hread : (readSegment e j .b (readSegment e j .a f).2).2.io.seatClass = f.io.seatClass := by simp
  unfold startFetch
  dsimp only
  split
  · exact hread
  · exact hread
  · split
    · exact hread
    · exact (hand_seatClass e (by decide) ..).trans hread

@[simp] theorem fetchRunning_seatClass : (fetchRunning e j f).io.seatClass = f.io.seatClass := by
  unfold fetchRunning
  extract_lets g narrow h buffer
  have hg : g.io.seatClass = f.io.seatClass := by
    unfold g
    split
    · exact startFetch_seatClass e j f
    · rfl
  split
  · exact hg
  · exact (consumeMany_seatClass e j g _).trans hg

@[simp] theorem fetchStarved_seatClass : (fetchStarved e j f).io.seatClass = f.io.seatClass := by
  unfold fetchStarved
  dsimp only
  split <;> simp

end

theorem fetchStream_seatClass (e : Env) (j : StreamNo) (st : Stream) (io : Io) :
    (fetchStream e j st io).2.seatClass = io.seatClass := by
  unfold fetchStream
  dsimp only
  split
  · rfl
  · rfl
  · exact fetchRunning_seatClass ..
  · exact fetchStarved_seatClass ..

theorem writeBacks_seatClass (e : Env) (j : StreamNo) (st : Stream) (io : Io) :
    (writeBacks e j st io).2.seatClass = io.seatClass := by
  have hretry (p : Stream × Io) (g : Segment) : (retryOwed e j p g).2.seatClass = p.2.seatClass := by
    unfold retryOwed
    split
    · rfl
    · exact writeRecord_seatClass ..
  have hback (p : Stream × Io) (b : WriteBack) : (writeBackOne e j p b).2.seatClass = p.2.seatClass :=
    writeRecord_seatClass ..
  exact (foldl_seatClass hback _ _).trans (foldl_seatClass hretry _ _)

/-! ## The prompt work and the cell writes of a seat -/

section
variable (e : Env) (k : SeatNo) (cell : CellNo) (p : PromptUnit) (io : Io)

@[simp] theorem fetchClip_seatClass (c : Clip) : (fetchClip e k cell c p io).io.seatClass = io.seatClass := by
  have hread (r : ClipRead) (i : Nat) : (readClipSample c.address r (c.cursor + i)).io.seatClass = r.io.seatClass := by
    unfold readClipSample
    dsimp only
    split <;> simp
  have hreads := foldl_seatClass (g := ClipRead.io) hread (List.range (bufferSource c)) ⟨[], none, io⟩
  unfold fetchClip
  dsimp only
  split
  · exact (hand_seatClass e (by decide) ..).trans hreads
  · exact hreads

@[simp] theorem takeClip_seatClass (address length format : Word) :
    (takeClip e k cell address length format p io).io.seatClass = io.seatClass := by
  unfold takeClip
  split
  · rfl
  · exact fetchClip_seatClass ..

@[simp] theorem readClipEntry_seatClass (index : Nat) : (readClipEntry e k cell index p io).io.seatClass = io.seatClass := by
  unfold readClipEntry
  dsimp only
  split
  · simp
  · split
    · simp
    · split <;> simp

@[simp] theorem prepareCell_seatClass : (prepareCell e k cell p io).io.seatClass = io.seatClass := by
  unfold prepareCell
  dsimp only
  split
  · simp
  · split
    · simp
    · split <;> simp

theorem promptFrame_seatClass (plays : Bool) : (promptFrame e k plays p io).io.seatClass = io.seatClass := by
  unfold promptFrame
  split
  · rfl
  · split
    · split
      · unfold playCell
        dsimp only
        split
        · rfl
        · split
          · rfl
          · split <;> exact fetchClip_seatClass ..
      · rfl
    · split
      · rfl
      · split
        · unfold prepareAgain
          split
          · exact prepareCell_seatClass ..
          · exact fetchClip_seatClass ..
        · exact prepareCell_seatClass ..

theorem retryCells_seatClass : (retryCells e k p io).2.seatClass = io.seatClass :=
  foldl_seatClass (f := retryCell e k) (g := Prod.snd) (fun _ _ => writeRecord_seatClass ..) _ ({ p with owed := [] }, io)

theorem makeWrite_seatClass (x : PromptUnit × Io) (w : CellWrite) : (makeWrite e k x w).2.seatClass = x.2.seatClass := by
  unfold makeWrite
  dsimp only
  split
  · exact writeRecord_seatClass ..
  · dsimp only
    split
    · exact (hand_seatClass e (by decide) ..).trans (writeRecord_seatClass ..)
    · exact writeRecord_seatClass ..

theorem endCells_seatClass (f : PromptFrame) : (endCells e k f).2.seatClass = f.io.seatClass :=
  (foldl_seatClass (g := Prod.snd) (makeWrite_seatClass e k) _ _).trans (retryCells_seatClass e k f.unit f.io)

end

/-! ## The works of a frame -/

/-- Handing notices changes a class by that class alone. -/
theorem handAll_seatClass_congr (e : Env) (ns : List NoticeOut) {x y : Io} (h : x.seatClass = y.seatClass) :
    (handAll e ns x).seatClass = (handAll e ns y).seatClass := by
  induction ns generalizing x y with
  | nil => exact h
  | cons n ns ih =>
    have hcls : x.cls .seat = y.cls .seat := h
    refine ih (x := hand e n.code n.source n.detail0 n.detail1 n.detail2 x)
      (y := hand e n.code n.source n.detail0 n.detail1 n.detail2 y) ?_
    have hhand := hand_cls e n.code n.source n.detail0 n.detail1 n.detail2 x .seat
    rw [hcls, ← hand_cls] at hhand
    exact hhand

/-- The SEAT notices of a unit's work: those of a serving seat's audio work. -/
def audioNotices (u : State) : Worker → List NoticeOut
  | .seat k => if k.val < u.header.serving then
      (seatAudio k (fun j => u.seats[j].kept) (seatInputs u k) u.seats[k]).notices else []
  | .stream _ => []

/-- The work of a seat in service is its audio work's notices, then accesses that hand no SEAT notice. -/
theorem frameWorkSeat_seatClass (e : Env) (k : SeatNo) (kept : SeatNo → Kept) (i : SeatInputs) (x : Seat) (io : Io) :
    (frameWorkSeat e k kept i x io).2.seatClass = (handAll e (seatAudio k kept i x).notices io).seatClass := by
  unfold frameWorkSeat
  dsimp only
  rw [writeRecord_seatClass, endCells_seatClass, promptFrame_seatClass]

variable {u : State}

theorem worksPass_seatClass {s : State} {w : Worker} (hw : ∀ k, w = .seat k → s.seats[k] = u.seats[k]) :
    (worksPass u s w).io.seatClass = (handAll u.env (audioNotices u w) s.io).seatClass := by
  cases w with
  | stream j => exact fetchStream_seatClass ..
  | seat k =>
    show (seatResult u k s.seats[k] s.io).2.seatClass = _
    rw [hw k rfl, seatResult, audioNotices]
    split
    · exact frameWorkSeat_seatClass ..
    · exact retryCells_seatClass ..

/-- The works hand the SEAT notices of the seats' audio work, in the order of the units. -/
theorem worked_seatClass (l : List Worker) (hl : l.Nodup) {s : State} (hs : ∀ k, .seat k ∈ l → s.seats[k] = u.seats[k]) :
    (l.foldl (worksPass u) s).io.seatClass = (handAll u.env (l.flatMap (audioNotices u)) s.io).seatClass := by
  induction l generalizing s with
  | nil => rfl
  | cons w l ih =>
    obtain ⟨hw, hl⟩ := List.nodup_cons.1 hl
    have hrest : ∀ k, .seat k ∈ l → (worksPass u s w).seats[k] = u.seats[k] := fun k hk =>
      (doUnit_seat_other fun heq : w = .seat k => hw (heq ▸ hk)).trans (hs k (List.mem_cons_of_mem _ hk))
    rw [List.foldl_cons, ih hl hrest, List.flatMap_cons, handAll_append]
    exact handAll_seatClass_congr _ _ (worksPass_seatClass fun k hk => hs k (hk ▸ List.mem_cons_self))

/-- The write-backs and the reports hand none. -/
theorem reported_seatClass (u : State) (order : List Worker) : (reported u order).io.seatClass =
    (handAll u.env ((workersOf order).flatMap (audioNotices u)) u.io).seatClass := by
  have hbacks (s : State) (w : Worker) : (backsPass u s w).io.seatClass = s.io.seatClass := by
    cases w with
    | seat k => rfl
    | stream j => exact writeBacks_seatClass ..
  have hreports (s : State) (w : Worker) : (reportsPass u s w).io.seatClass = s.io.seatClass := by
    cases w with
    | seat k => rfl
    | stream j =>
      show (reportResult u j s.streams[j] s.io).2.seatClass = _
      unfold reportResult
      split
      · rfl
      · exact writeRecord_seatClass ..
  exact (foldl_seatClass (g := State.io) hreports _ _).trans ((foldl_seatClass (g := State.io) hbacks _ _).trans
    (worked_seatClass _ (workersOf_nodup order) fun _ _ => rfl))

end Sys2Proof.SeatNotices
end

section
/-! What the scans of a boundary leave of what governs the frame that opens (10.5): of a seat, all but its adopted record, its
tail and its play order; of a stream, all but its listeners, and its buffer even when a record is adopted. -/

namespace Sys2Proof.ScanFrames

open Sys2Proof.Machine Sys2Proof.Laws Sys2Proof.SeatActs Sys2Proof.RecordTaken Sys2Proof.StepLaws

/-! ## Seats -/

/-- A seat before and after the scans. -/
def SeatScanned (x y : Seat) : Prop := y = { x with
  edition := y.edition, adopted := y.adopted, due := y.due, blocks := y.blocks, waiting := y.waiting
  prompt := { x.prompt with order := y.prompt.order, stale := y.prompt.stale } }

theorem SeatScanned.refl (x : Seat) : SeatScanned x x := rfl

theorem SeatScanned.trans {x y z : Seat} (h : SeatScanned x y) (g : SeatScanned y z) : SeatScanned x z := by
  unfold SeatScanned at h g ⊢
  rw [h] at g
  exact g

/-- Attachments, a tail, dues and an edition alone. -/
theorem SeatScanned.settled {x y : Seat} (h : y = { seatAttachedAs x y with
    edition := y.edition, due := y.due, blocks := y.blocks, waiting := y.waiting }) : SeatScanned x y := by
  have hadopted := congrArg Seat.adopted h
  have hprompt : y.prompt = x.prompt := by
    have hprompt := congrArg Seat.prompt h
    exact hprompt
  unfold SeatScanned
  rw [hadopted, hprompt]
  exact h

theorem SeatScanned.attached {x y : Seat} (h : y = seatAttachedAs x y) : SeatScanned x y := by
  have hadopted := congrArg Seat.adopted h
  have hrest := congrArg (fun z => (z.edition, z.due, z.blocks, z.waiting)) h
  simp only [seatAttachedAs, Prod.mk.injEq] at hrest
  obtain ⟨he, hd, hb, hw⟩ := hrest
  refine .settled ?_
  rw [he, hd, hb, hw]
  exact h

variable {s t v : State} {k : SeatNo}

theorem does_scanned {d : Due → Due} {f : StreamNo → Stream → Stream} {L : List NoticeOut} (h : Does k d f L s t)
    (j : SeatNo) : SeatScanned s.seats[j] t.seats[j] := by
  by_cases hj : j = k
  · subst hj
    have hedition := congrArg Seat.edition h.own
    have hdue := congrArg Seat.due h.own
    refine .settled ?_
    rw [hedition, hdue]
    exact h.own
  · exact .attached (h.others j hj)

theorem takes_scanned {set : Settings → Settings} {d : Due → Due} {mark : PromptUnit → PromptUnit} {edition : Option Word}
    {f : StreamNo → Stream → Stream} {L : List NoticeOut} (h : Takes k set d mark edition f L s t)
    (hmark : ∀ p, mark p = { p with order := (mark p).order }) (j : SeatNo) : SeatScanned s.seats[j] t.seats[j] := by
  by_cases hj : j = k
  · subst hj
    have hown := h.own
    rw [hmark] at hown
    unfold SeatScanned
    rw [hown]
  · exact .attached (h.others j hj)

theorem modSeat_scanned {f : Seat → Seat} (h : SeatScanned s.seats[k] (f s.seats[k])) (j : SeatNo) :
    SeatScanned s.seats[j] (s.modSeat k f).seats[j] := by
  rw [modSeat_get]
  split
  · next heq => exact heq ▸ h
  · exact .refl _

theorem recordMark_order (r : SeatRecord) (p : PromptUnit) : recordMark r p = { p with order := (recordMark r p).order } := by
  unfold recordMark
  split <;> rfl

theorem takeSeat_scanned (s : State) (k : SeatNo) (e : Word) (r : SeatRecord) (j : SeatNo) :
    SeatScanned s.seats[j] (s.takeSeat k e r).seats[j] := by
  cases hcheck : checkRecord s k r with
  | some why =>
    rw [takeSeat_refused e hcheck]
    have hedition : SeatScanned s.seats[j] (s.refuseSeat k e why).seats[j] :=
      modSeat_scanned (f := fun x => { x with edition := some e }) rfl j
    exact hedition.trans (does_scanned (retryTail_does _ k) j)
  | none => exact takes_scanned (takeSeat_takes e hcheck) (recordMark_order r) j

theorem scanState_scanned (c : CellNo) (w : CellState) (p : PromptUnit) :
    scanState c w p = { p with order := (scanState c w p).order, stale := (scanState c w p).stale } := by
  unfold scanState
  split
  · split <;> rfl
  · cases w <;> rfl

theorem scanCells_scanned (e : Env) (k : SeatNo) (p : PromptUnit) (io : Io) :
    (scanCells e k p io).1 = { p with order := (scanCells e k p io).1.order, stale := (scanCells e k p io).1.stale } :=
  SeatLaws.scanCells_keeps (P := fun q => q = { p with order := q.order, stale := q.stale })
    (fun c w q hq => (scanState_scanned c w q).trans (by rw [hq])) e k io rfl

/-- The seats' part of the scans. -/
theorem seats_law (v : State) : ScanLaw fun t => ∀ k : SeatNo, SeatScanned v.seats[k] t.seats[k] where
  congr hs hseats _ := hseats ▸ hs
  retry {s} k hs j := (hs j).trans (does_scanned (retryTail_does s k) j)
  record {s} k e ws hs j := (hs j).trans (takeSeat_scanned s k e _ j)
  leave {s} k hs j := (hs j).trans (takes_scanned (leaveService_takes s k) (fun _ => rfl) j)
  cells {s} k hs j := by
    have hcells : SeatScanned s.seats[k] { s.seats[k] with prompt := (scanCells s.env k s.seats[k].prompt s.io).1 } :=
      congrArg (fun p : PromptUnit => ({ s.seats[k] with prompt := p } : Seat))
        (scanCells_scanned s.env k s.seats[k].prompt s.io)
    exact (hs j).trans (modSeat_scanned (f := fun x => { x with prompt := (scanCells s.env k s.seats[k].prompt s.io).1 })
      hcells j)

/-! ## Streams -/

/-- A stream before and after its listeners change. -/
def StreamHeard (x y : Stream) : Prop := y = { x with listeners := y.listeners, state := y.state }

theorem StreamHeard.trans {x y z : Stream} (h : StreamHeard x y) (g : StreamHeard y z) : StreamHeard x z := by
  unfold StreamHeard at h g ⊢
  rw [h] at g
  exact g

theorem hear_heard (was is : StreamNo → Bool) (j : StreamNo) (x : Stream) : StreamHeard x (hear was is j x) := by
  unfold hear
  split
  · rfl
  · split <;> rfl

theorem takeSeat_heard (s : State) (k : SeatNo) (e : Word) (r : SeatRecord) (j : StreamNo) :
    StreamHeard s.streams[j] (s.takeSeat k e r).streams[j] := by
  cases hcheck : checkRecord s k r with
  | some why =>
    rw [takeSeat_refused e hcheck, (retryTail_does (s.refuseSeat k e why) k).streams j]
    exact rfl
  | none =>
    rw [(takeSeat_takes e hcheck).streams j]
    exact hear_heard ..

/-- The streams' part of the scans of seats. -/
theorem streams_law (v : State) : ScanLaw fun t => ∀ j : StreamNo, StreamHeard v.streams[j] t.streams[j] where
  congr hs _ hstreams := hstreams ▸ hs
  retry {s} k hs j := by
    rw [(retryTail_does s k).streams j]
    exact hs j
  record {s} k e ws hs j := (hs j).trans (takeSeat_heard s k e _ j)
  leave {s} k hs j := by
    rw [(leaveService_takes s k).streams j]
    exact (hs j).trans (hear_heard ..)
  cells _ hs := hs

/-! ## The places of the streams -/

/-- A stream's place in the scan: the stream stands, or takes the edition that its place names. -/
theorem streamPlace_cases (s : State) (x : StreamNo × Option Word) :
    (streamPlace s x).streams = s.streams ∨ ∃ e enable narrow, x.2 = some e ∧
      (streamPlace s x).streams = (s.modStream x.1 (adoptStream e enable narrow)).streams := by
  unfold streamPlace
  split
  · exact .inl rfl
  · next e he =>
    dsimp only
    cases (readStream s x.1 e).1 with
    | none => exact .inl rfl
    | some ws => exact .inr ⟨e, _, _, he, rfl⟩

theorem streamPlace_seats (s : State) (x : StreamNo × Option Word) : (streamPlace s x).seats = s.seats := by
  unfold streamPlace
  split
  · rfl
  · dsimp only
    cases (readStream s x.1 _).1 <;> rfl

theorem foldl_streamPlace_seats (l : List (StreamNo × Option Word)) (s : State) :
    (l.foldl streamPlace s).seats = s.seats :=
  List.foldlRecOn l streamPlace (motive := fun t => t.seats = s.seats) rfl fun t ht x _ => (streamPlace_seats t x).trans ht

/-- What the places of the streams leave of one. -/
def StreamPlaced (l : List (StreamNo × Option Word)) (j : StreamNo) (x y : Stream) : Prop :=
  y.buffer = x.buffer ∧ y.playing = x.playing ∧ (y = x ∨ ∃ e, (j, some e) ∈ l ∧ y.edition = some e)

theorem adoptStream_frame (e : Word) (enable narrow : Bool) (x : Stream) :
    (adoptStream e enable narrow x).buffer = x.buffer ∧ (adoptStream e enable narrow x).playing = x.playing ∧
      (adoptStream e enable narrow x).edition = some e := by
  unfold adoptStream
  dsimp only
  split
  · exact ⟨rfl, rfl, rfl⟩
  · split <;> exact ⟨rfl, rfl, rfl⟩

theorem foldl_streamPlace (l : List (StreamNo × Option Word)) (s : State) (j : StreamNo) :
    StreamPlaced l j s.streams[j] (l.foldl streamPlace s).streams[j] := by
  refine List.foldlRecOn l streamPlace (motive := fun t => StreamPlaced l j s.streams[j] t.streams[j])
    ⟨rfl, rfl, .inl rfl⟩ fun t ht x hx => ?_
  obtain ⟨hbuffer, hplaying, hcase⟩ := ht
  obtain hstand | ⟨e, enable, narrow, he, hadopt⟩ := streamPlace_cases t x
  · rw [hstand]
    exact ⟨hbuffer, hplaying, hcase⟩
  · rw [hadopt, modStream_get]
    split
    · next hj =>
      subst hj
      obtain ⟨hb, hp, hedition⟩ := adoptStream_frame e enable narrow t.streams[x.1]
      have hmem : (x.1, some e) ∈ l := by rw [← he]; exact hx
      exact ⟨hb.trans hbuffer, hp.trans hplaying, .inr ⟨e, hmem, hedition⟩⟩
    · exact ⟨hbuffer, hplaying, hcase⟩

/-- An edition that is read as changed is not the adopted one. -/
theorem readEdition_changed {e : Env} {src : Source} {a : Nat} {held : Option Word} {io : Io} {w : Word}
    (h : (readEdition e src a held io).1 = some w) : held ≠ some w := by
  unfold readEdition at h
  dsimp only at h
  split at h
  · cases h
  · next hne => exact fun heq => hne (h.trans heq.symm)

/-- The streams stand, and the editions read so far are changed ones. -/
def ReadChanged (s : State) (x : List (StreamNo × Option Word) × State) : Prop :=
  x.2.streams = s.streams ∧ ∀ y ∈ x.1, ∀ e, y.2 = some e → s.streams[y.1].edition ≠ some e

theorem streamEdition_changed {s : State} {x : List (StreamNo × Option Word) × State} (h : ReadChanged s x) (j : StreamNo) :
    ReadChanged s (streamEdition x j) := by
  obtain ⟨hstreams, hread⟩ := h
  refine ⟨hstreams, fun y hy e he => ?_⟩
  obtain hy | hy := List.mem_append.1 hy
  · exact hread y hy e he
  · obtain rfl := List.mem_singleton.1 hy
    have hchanged := readEdition_changed he
    rw [hstreams] at hchanged
    exact hchanged

theorem foldl_streamEdition_changed (l : List StreamNo) (s : State) : ReadChanged s (l.foldl streamEdition ([], s)) :=
  List.foldlRecOn l streamEdition (motive := ReadChanged s) ⟨rfl, nofun⟩ fun _ hx j _ => streamEdition_changed hx j

/-- The editions read in step 3 are changed ones. -/
theorem readStreamEditions_changed (s : State) {j : StreamNo} {e : Word} :
    (j, some e) ∈ (readStreamEditions s).1 → s.streams[j].edition ≠ some e := by
  intro h
  have hall : ReadChanged s (readStreamEditions s) := by
    unfold readStreamEditions
    exact foldl_streamEdition_changed _ s
  generalize readStreamEditions s = x at h hall
  exact hall.2 (j, some e) h e rfl

/-! ## The scans of a boundary -/

theorem places_seats {v w : State} (al : List (SeatNo × Option Word)) (bl : List (StreamNo × Option Word))
    (h : ∀ k : SeatNo, SeatScanned v.seats[k] w.seats[k]) (k : SeatNo) :
    SeatScanned v.seats[k] (bl.foldl streamPlace (al.foldl seatPlace w)).seats[k] := by
  have hplaces := foldl_keeps (P := fun t => ∀ k : SeatNo, SeatScanned v.seats[k] t.seats[k])
    (fun _ x => (seats_law v).seatPlace x) al h k
  have hseats := foldl_streamPlace_seats bl (al.foldl seatPlace w)
  generalize bl.foldl streamPlace (al.foldl seatPlace w) = t at hseats ⊢
  rw [hseats]
  exact hplaces

/-- What a scan leaves of a stream: its buffer, and all but its listeners unless its edition changes. -/
def StreamScanned (x y : Stream) : Prop :=
  y.buffer = x.buffer ∧ y.playing = x.playing ∧ (y.edition = x.edition → StreamHeard x y)

theorem StreamHeard.scanned {x y : Stream} (h : StreamHeard x y) : StreamScanned x y := by
  have hheard := h
  unfold StreamHeard at h
  exact ⟨by rw [h], by rw [h], fun _ => hheard⟩

theorem StreamHeard.edition {x y : Stream} (h : StreamHeard x y) : y.edition = x.edition := by
  unfold StreamHeard at h
  rw [h]

theorem places_stream {v w : State} (al : List (SeatNo × Option Word)) (bl : List (StreamNo × Option Word))
    (h : ∀ j : StreamNo, StreamHeard v.streams[j] w.streams[j]) {j : StreamNo}
    (hchanged : ∀ e, (j, some e) ∈ bl → v.streams[j].edition ≠ some e) :
    StreamScanned v.streams[j] (bl.foldl streamPlace (al.foldl seatPlace w)).streams[j] := by
  have hplaces := foldl_keeps (P := fun t => ∀ j : StreamNo, StreamHeard v.streams[j] t.streams[j])
    (fun _ x => (streams_law v).seatPlace x) al h j
  have hplaced := foldl_streamPlace bl (al.foldl seatPlace w) j
  generalize bl.foldl streamPlace (al.foldl seatPlace w) = t at hplaced ⊢
  obtain ⟨hb, hp, hcase⟩ := hplaced
  obtain ⟨hbuffer, hplaying, -⟩ := hplaces.scanned
  refine ⟨hb.trans hbuffer, hp.trans hplaying, fun hsame => ?_⟩
  obtain hstand | ⟨e, hmem, he⟩ := hcase
  · rw [hstand]
    exact hplaces
  · exact absurd (hsame.symm.trans he) (hchanged e hmem)

theorem adoptionScan_seats (v : State) (k : SeatNo) : SeatScanned v.seats[k] v.adoptionScan.seats[k] := by
  have hheader := (seats_law v).scanHeader (s := v) fun k => .refl _
  unfold State.adoptionScan
  dsimp only
  split
  · exact (seats_law v).retries hheader k
  · exact places_seats _ _ ((seats_law v).streamEditions ((seats_law v).seatEditions hheader)) k

/-- A stream after the adoption scan: heard, or with an edition that was read as a changed one. -/
theorem adoptionScan_stream (v : State) (j : StreamNo) : StreamScanned v.streams[j] v.adoptionScan.streams[j] := by
  have hheader := (streams_law v).scanHeader (s := v) fun j => rfl
  unfold State.adoptionScan
  dsimp only
  split
  · exact ((streams_law v).retries hheader j).scanned
  · have hread := (streams_law v).seatEditions hheader
    refine places_stream _ _ ((streams_law v).streamEditions hread) fun e he => ?_
    rw [← (hread j).edition]
    exact readStreamEditions_changed _ he

theorem cellScan_streams (s : State) : s.cellScan.streams = s.streams :=
  List.foldlRecOn s.scanned scanSeatCells (motive := fun t => t.streams = s.streams) rfl fun t ht k _ =>
    (rfl : (scanSeatCells t k).streams = t.streams).trans ht

theorem scans_seats (v : State) (k : SeatNo) : SeatScanned v.seats[k] v.scans.seats[k] := by
  unfold State.scans
  split
  · exact (seats_law v).retries (fun k => .refl _) k
  · exact (seats_law v).cellScan (adoptionScan_seats v) k

theorem scans_stream (v : State) (j : StreamNo) : StreamScanned v.streams[j] v.scans.streams[j] := by
  unfold State.scans
  split
  · exact ((streams_law v).retries (s := v) (fun _ => rfl) j).scanned
  · have hcells : v.adoptionScan.cellScan.streams[j] = v.adoptionScan.streams[j] := by rw [cellScan_streams]
    rw [hcells]
    exact adoptionScan_stream v j

theorem scans_ports (v : State) : v.scans.header.serving = v.header.serving ∧
    v.scans.sh = { v.sh with adopted := v.scans.sh.adopted, restart := v.scans.sh.restart } ∧
    v.scans.nh = { v.nh with adopted := v.scans.nh.adopted, restart := v.scans.nh.restart } := by
  have hkeeps := scans_keeps (lo := 0) (hi := 0) v
  exact ⟨hkeeps.serving,
    congrArg (fun p : SeatPort => { p with adopted := v.scans.sh.adopted, restart := v.scans.sh.restart }) hkeeps.seatCore,
    congrArg (fun p : NetPort => { p with adopted := v.scans.nh.adopted, restart := v.scans.nh.restart }) hkeeps.netCore⟩

end Sys2Proof.ScanFrames
end

section
/-! The frame boundary (10.3): the frame of work, RUN, the frame that opens, the monitor, and the scans after them. -/

namespace Sys2Proof.FrameBoundary

open Sys2Proof.Machine Sys2Proof.Laws Sys2Proof.BusSide Sys2Proof.CalmBus Sys2Proof.Expiry Sys2Proof.FrameUnits
  Sys2Proof.SeatNotices Sys2Proof.ScanFrames

/-! ## The parts of a boundary -/

/-- The state once the frame's work, if it is a frame of work, has been done. -/
def workDone (u : State) (order : List Worker) : State := if u.running then u.frameWork order else u

/-- The state once the next frame's number stands and RUN has acted. -/
def turned (u : State) (order : List Worker) : State := (workDone u order).nextFrame.actOnRun

/-- The state before the scans: with the settings that govern the frame that opens, and the monitor's work. -/
def openedFrame (u : State) (order : List Worker) : State :=
  if u.regs.run = true then (turned u order).promote.monitorTick else turned u order

variable (u : State) (order : List Worker)

/-- The bus side after the frame's work. -/
def served : Io := if u.running = true then serveNotices u.env (heldReads u.env (ticked u order)) else u.io

/-- The monitor with the stand-alone count at the end of the frame. -/
def counted : TickMonitor := { u.tick with aloneFrames :=
  if u.running = true ∧ u.tick.standalone = true then countUp u.tick.aloneFrames else u.tick.aloneFrames }

theorem endFrame_eq (t : TickMonitor) : t.endFrame =
    { t with aloneFrames := if t.standalone = true then countUp t.aloneFrames else t.aloneFrames } := by
  unfold TickMonitor.endFrame
  split <;> rfl

theorem workDone_eq : workDone u order = { u with
    tick := counted u
    seats := (if u.running = true then reported u order else u).seats
    streams := (if u.running = true then reported u order else u).streams
    io := served u order } := by
  unfold workDone counted served
  by_cases h : u.running = true
  · rw [if_pos h, frameWork_eq, endFrame_eq]
    simp only [h, reduceIte, true_and]
  · have hcounted : (if u.running = true ∧ u.tick.standalone = true then countUp u.tick.aloneFrames
        else u.tick.aloneFrames) = u.tick.aloneFrames := if_neg fun hworks => h hworks.1
    rw [if_neg h, if_neg h, if_neg h, hcounted]

theorem workDone_parts : (workDone u order).seats = (if u.running = true then reported u order else u).seats ∧
    (workDone u order).streams = (if u.running = true then reported u order else u).streams ∧
    (workDone u order).running = u.running ∧ (workDone u order).regs = u.regs := by
  rw [workDone_eq]
  exact ⟨rfl, rfl, rfl, rfl⟩

/-! ## RUN -/

/-- RUN acting on a seat and on a stream. -/
theorem actOnRun_eq (n : State) : n.actOnRun = { n with
    running := n.regs.run
    sh := if n.running = true ∧ ¬ n.regs.run = true then n.sh.stop else n.sh
    nh := if n.running = true ∧ ¬ n.regs.run = true then n.nh.stop
      else if ¬ n.running = true ∧ n.regs.run = true then n.nh.resume else n.nh
    seats := n.actOnRun.seats, streams := n.actOnRun.streams } := by
  unfold State.actOnRun
  by_cases hworks : n.running = true
  · by_cases hruns : n.regs.run = true
    · simp only [hworks, hruns, reduceIte, not_true_eq_false, and_false, false_and]
      rw [← hworks]
    · have hstops : n.regs.run = false := Bool.eq_false_iff.2 hruns
      simp only [hworks, hstops, reduceIte, Bool.false_eq_true, not_false_eq_true, and_true]
      rfl
  · by_cases hruns : n.regs.run = true
    · simp only [hworks, hruns, reduceIte, not_true_eq_false, and_false, and_true]
      rfl
    · have hstopped : n.running = false := Bool.eq_false_iff.2 hworks
      have hstops : n.regs.run = false := Bool.eq_false_iff.2 hruns
      simp only [hstopped, hstops, reduceIte, Bool.false_eq_true, and_false, false_and]
      rw [← hstopped]

theorem actOnRun_seat (n : State) (k : SeatNo) : n.actOnRun.seats[k] =
    if ¬ n.running = true ∧ n.regs.run = true then resumeSeat n.seats[k] else n.seats[k] := by
  unfold State.actOnRun
  by_cases hworks : n.running = true
  · have hno : ¬ (¬ n.running = true ∧ n.regs.run = true) := fun h => h.1 hworks
    rw [if_pos hworks, if_neg hno]
    split <;> rfl
  · rw [if_neg hworks]
    by_cases hruns : n.regs.run = true
    · have hyes : ¬ n.running = true ∧ n.regs.run = true := ⟨hworks, hruns⟩
      rw [if_pos hruns, if_pos hyes]
      exact tabulate_get ..
    · have hno : ¬ (¬ n.running = true ∧ n.regs.run = true) := fun h => hruns h.2
      rw [if_neg hruns, if_neg hno]

theorem actOnRun_stream (n : State) (j : StreamNo) : n.actOnRun.streams[j] =
    if n.running = true then (if n.regs.run = true then n.streams[j] else stopStream n.streams[j])
    else if n.regs.run = true then resumeStream n.streams[j] else n.streams[j] := by
  unfold State.actOnRun
  by_cases hworks : n.running = true
  · rw [if_pos hworks, if_pos hworks]
    by_cases hruns : n.regs.run = true
    · rw [if_pos hruns, if_pos hruns]
    · rw [if_neg hruns, if_neg hruns]
      exact tabulate_get ..
  · rw [if_neg hworks, if_neg hworks]
    by_cases hruns : n.regs.run = true
    · rw [if_pos hruns, if_pos hruns]
      exact tabulate_get ..
    · rw [if_neg hruns, if_neg hruns]

/-- The state once RUN has acted: the highway ports, the seats and the streams as RUN leaves them. -/
theorem turned_eq : turned u order = { u with
    frame := u.frame + 1, cycle := 0, running := u.regs.run, tick := counted u, io := served u order
    sh := if u.running = true ∧ ¬ u.regs.run = true then u.sh.opened.stop else u.sh.opened
    nh := if u.running = true ∧ ¬ u.regs.run = true then u.nh.opened.stop
      else if ¬ u.running = true ∧ u.regs.run = true then u.nh.opened.resume else u.nh.opened
    seats := (turned u order).seats, streams := (turned u order).streams } := by
  have hturned := actOnRun_eq (workDone u order).nextFrame
  have hdone : (workDone u order).nextFrame = { u with
      frame := u.frame + 1, cycle := 0, tick := counted u, io := served u order, sh := u.sh.opened, nh := u.nh.opened
      seats := (workDone u order).seats, streams := (workDone u order).streams } := by
    have hwork := workDone_eq u order
    generalize workDone u order = w at hwork
    rw [hwork]
    rfl
  unfold turned
  rw [hturned]
  generalize (workDone u order).nextFrame.actOnRun = t
  rw [hdone]

/-- A seat as the frame's work leaves it. -/
theorem turned_seat (k : SeatNo) :
    let x := u.seats[k]
    (u.running = true → ∃ io, (order.head? = some (.seat k) → io = u.io) ∧
      (turned u order).seats[k] = (seatResult u k x io).1) ∧
    (¬ u.running = true → (turned u order).seats[k] = if u.regs.run = true then resumeSeat x else x) := by
  intro x
  have hturned := actOnRun_seat (workDone u order).nextFrame k
  obtain ⟨hseats, -, hrunning, hregs⟩ : (workDone u order).nextFrame.seats = _ ∧ _ ∧
    (workDone u order).nextFrame.running = _ ∧ (workDone u order).nextFrame.regs = _ := workDone_parts u order
  unfold turned
  generalize (workDone u order).nextFrame = n at hturned hseats hrunning hregs
  rw [hturned, hrunning, hregs, hseats]
  refine ⟨fun hworks => ?_, fun hstopped => ?_⟩
  · obtain ⟨io, hfirst, hseat⟩ := worked_seat u order k
    refine ⟨io, hfirst, ?_⟩
    rw [if_neg fun h => h.1 hworks, if_pos hworks, reported_seats, hseat]
  · rw [if_neg hstopped, if_congr (and_iff_right hstopped) rfl rfl]

/-- A stream as the frame's work leaves it. -/
theorem turned_stream (j : StreamNo) :
    let st := u.streams[j]
    (u.running = true → ∃ io io' : Io, (order.head? = some (.stream j) → io = u.io) ∧
      let f := (writeBacks u.env j (fetchStream u.env j st io).1 io').1
      (turned u order).streams[j] = if u.regs.run = true then f else { f with owedA := none, owedB := none }) ∧
    (¬ u.running = true → (turned u order).streams[j] =
      if u.regs.run = true then { st with buffer := List.replicate 80 0, playing := false } else st) := by
  intro st
  have hturned := actOnRun_stream (workDone u order).nextFrame j
  obtain ⟨-, hstreams, hrunning, hregs⟩ : _ ∧ (workDone u order).nextFrame.streams = _ ∧
    (workDone u order).nextFrame.running = _ ∧ (workDone u order).nextFrame.regs = _ := workDone_parts u order
  unfold turned
  generalize (workDone u order).nextFrame = n at hturned hstreams hrunning hregs
  rw [hturned, hrunning, hregs, hstreams]
  refine ⟨fun hworks => ?_, fun hstopped => ?_⟩
  · obtain ⟨io, hfirst, hfetch⟩ := worked_stream u order j
    obtain ⟨io', hbacks⟩ := backed_stream u order j
    refine ⟨io, io', hfirst, ?_⟩
    rw [if_pos hworks, if_pos hworks, reported_streams, hbacks, hfetch]
    rfl
  · rw [if_neg hstopped, if_neg hstopped]
    rfl

/-! ## The frame that opens -/

theorem turned_running : (turned u order).running = u.regs.run := congrArg State.running (turned_eq u order)

/-- The host tick word that the monitor reads at the boundary. -/
def wordRead : Option Word × Io :=
  readReporting (openedFrame u order).env .header 0 (u.regs.stationBase.toNat + 0x24) (served u order)

theorem monitorTick_eq (w : State) :
    let r := readReporting w.env .header 0 (w.area.toNat + 0x24) w.io
    w.monitorTick = { w with
      tick := w.tick.observe r.1
      io := if w.tick.standalone = true ∧ (w.tick.observe r.1).standalone = false then
          hand w.env .resumed .tickMonitor (r.1.getD 0) (BitVec.ofNat 32 w.tick.aloneFrames) 0 r.2
        else r.2 } := by
  intro r
  unfold State.monitorTick
  have hcond : (w.tick.standalone && !(w.tick.observe r.1).standalone) = true ↔
      w.tick.standalone = true ∧ (w.tick.observe r.1).standalone = false := by simp
  by_cases h : w.tick.standalone = true ∧ (w.tick.observe r.1).standalone = false
  · rw [if_pos h]
    exact if_pos (hcond.2 h)
  · rw [if_neg h]
    exact if_neg (hcond.not.2 h)

theorem openedFrame_env : (openedFrame u order).env =
    { frame := u.frame + 1, running := u.regs.run
      area := (if u.regs.run = true then u.regs.stationBase else u.area).toNat
      lo := u.regs.windowBase.toNat, hi := u.regs.windowLimit.toNat } := by
  unfold openedFrame
  have hturned := turned_eq u order
  generalize turned u order = w at hturned
  split
  · rw [monitorTick_eq, hturned]
    rfl
  · rw [hturned]
    rfl

/-- The state that the monitor finds: the settings and the service of the scan before have taken over. -/
theorem promoted_eq : (turned u order).promote = { u with
    frame := u.frame + 1, cycle := 0, running := u.regs.run, tick := counted u, io := served u order
    area := u.regs.stationBase, header := { u.header with serving := u.header.seats }
    sh := (turned u order).sh, nh := (turned u order).nh
    seats := (turned u order).promote.seats, streams := (turned u order).streams } := by
  unfold State.promote
  dsimp only
  generalize tabulate _ = seats
  have hturned := turned_eq u order
  generalize turned u order = w at hturned
  rw [hturned]

theorem openedFrame_runs (h : u.regs.run = true) : openedFrame u order = { (turned u order).promote with
    tick := (counted u).observe (wordRead u order).1
    io := if u.tick.standalone = true ∧ ((counted u).observe (wordRead u order).1).standalone = false then
        hand (openedFrame u order).env .resumed .tickMonitor ((wordRead u order).1.getD 0)
          (BitVec.ofNat 32 (counted u).aloneFrames) 0 (wordRead u order).2
      else (wordRead u order).2 } := by
  have hmonitor := monitorTick_eq (turned u order).promote
  have hpromoted := promoted_eq u order
  have hopened : openedFrame u order = (turned u order).promote.monitorTick := if_pos h
  have henv : (turned u order).promote.env = (openedFrame u order).env := by
    rw [openedFrame_env, if_pos h, hpromoted]
    rfl
  have hread : readReporting (turned u order).promote.env .header 0 ((turned u order).promote.area.toNat + 0x24)
      (turned u order).promote.io = wordRead u order := by
    rw [henv, wordRead, hpromoted]
  have htick : (turned u order).promote.tick = counted u := by rw [hpromoted]
  dsimp only at hmonitor
  rw [hread, htick, henv] at hmonitor
  exact hopened.trans hmonitor

theorem openedFrame_stops (h : ¬ u.regs.run = true) : openedFrame u order = turned u order := if_neg h

theorem openedFrame_tick : (openedFrame u order).tick =
    if u.regs.run = true then (counted u).observe (wordRead u order).1 else counted u := by
  by_cases h : u.regs.run = true
  · rw [if_pos h, openedFrame_runs u order h]
  · rw [if_neg h, openedFrame_stops u order h, turned_eq]

theorem openedFrame_io : (openedFrame u order).io = if ¬ u.regs.run = true then served u order
    else if u.tick.standalone = true ∧ (openedFrame u order).tick.standalone = false then
      hand (openedFrame u order).env .resumed .tickMonitor ((wordRead u order).1.getD 0)
        (BitVec.ofNat 32 (counted u).aloneFrames) 0 (wordRead u order).2
    else (wordRead u order).2 := by
  by_cases h : u.regs.run = true
  · rw [if_neg (not_not.2 h), openedFrame_tick, if_pos h]
    exact congrArg State.io (openedFrame_runs u order h)
  · rw [if_pos h, openedFrame_stops u order h, turned_eq]

theorem openedFrame_ports : (openedFrame u order).sh = (turned u order).sh ∧ (openedFrame u order).nh = (turned u order).nh ∧
    (openedFrame u order).streams = (turned u order).streams := by
  by_cases h : u.regs.run = true
  · rw [openedFrame_runs u order h]
    exact ⟨rfl, rfl, rfl⟩
  · rw [openedFrame_stops u order h]
    exact ⟨rfl, rfl, rfl⟩

theorem openedFrame_seat (k : SeatNo) : (openedFrame u order).seats[k] =
    if ¬ u.regs.run = true then (turned u order).seats[k]
    else openSeat (u.entering k) (turned u order).seats[k] := by
  by_cases h : u.regs.run = true
  · have hentering : (turned u order).entering k = u.entering k := by
      unfold State.entering
      rw [turned_eq]
    rw [if_neg (not_not.2 h), openedFrame_runs u order h, ← hentering]
    exact tabulate_get ..
  · rw [if_pos h, openedFrame_stops u order h]

/-- What the boundary leaves of the state, before the scans. -/
theorem openedFrame_eq : openedFrame u order = { u with
    frame := u.frame + 1, cycle := 0, running := u.regs.run
    area := if u.regs.run = true then u.regs.stationBase else u.area
    header := if u.regs.run = true then { u.header with serving := u.header.seats } else u.header
    io := (openedFrame u order).io, tick := (openedFrame u order).tick, sh := (openedFrame u order).sh
    nh := (openedFrame u order).nh, seats := (openedFrame u order).seats, streams := (openedFrame u order).streams } := by
  by_cases h : u.regs.run = true
  · rw [if_pos h, if_pos h, openedFrame_runs u order h]
    dsimp only
    rw [promoted_eq]
  · rw [if_neg h, if_neg h, openedFrame_stops u order h, turned_eq]

/-- The whole boundary: the scans follow when the part runs on and the monitor has not expired. -/
theorem boundary_eq (s : State) : s.boundary order =
    if s.settleExpiry.regs.run = true ∧ (openedFrame s.settleExpiry order).tick.expired = false then
      (openedFrame s.settleExpiry order).scans else openedFrame s.settleExpiry order := by
  unfold State.boundary
  generalize s.settleExpiry = u
  have hturned : (if u.running = true then u.frameWork order else u).nextFrame.actOnRun = turned u order := rfl
  dsimp only
  rw [hturned, turned_running]
  by_cases h : u.regs.run = true
  · have hopened : openedFrame u order = (turned u order).promote.monitorTick := if_pos h
    rw [if_pos h, hopened, State.openWork]
    generalize (turned u order).promote.monitorTick = v
    by_cases hexpired : v.tick.expired = true
    · have hno : ¬ (u.regs.run = true ∧ v.tick.expired = false) := by simp [hexpired]
      rw [if_pos hexpired, if_neg hno]
    · rw [if_neg hexpired, if_pos ⟨h, Bool.eq_false_iff.2 hexpired⟩]
  · rw [if_neg h, if_neg fun hboth => h hboth.1, openedFrame_stops u order h]

end Sys2Proof.FrameBoundary
end

section
/-! What a frame boundary leaves (O18), from its parts. -/

namespace Sys2Proof.BoundaryOutcome

open Sys2Proof.Machine Sys2Proof.Laws Sys2Proof.BusSide Sys2Proof.CalmBus Sys2Proof.Expiry Sys2Proof.FrameUnits
  Sys2Proof.SeatNotices Sys2Proof.ScanFrames Sys2Proof.FrameBoundary

/-! ## The state that the boundary's work begins with -/

/-- What an expiry settled before the work leaves. -/
structure Settled (s u : State) : Prop where
  pending : u.pending = s.pending
  regs : u.regs = s.regs
  frame : u.frame = s.frame
  running : u.running = s.running
  area : u.area = s.area
  bus : BusReach (winLo s) (winHi s) s.io u.io

theorem settleExpiry_settled (s : State) : Settled s s.settleExpiry := by
  unfold State.settleExpiry
  split
  · have hkeeps := scans_keeps (lo := 0) (hi := 0) s.expire
    have hexpire := expire_state s
    obtain ⟨hpending, hregs, hbus⟩ := expireAndScan_reaches s
    refine ⟨hpending, hregs, ?_, ?_, ?_, hbus⟩
    · exact hkeeps.frame.trans (by rw [hexpire])
    · exact hkeeps.running.trans (by rw [hexpire])
    · exact hkeeps.area.trans (by rw [hexpire])
  · exact ⟨rfl, rfl, rfl, rfl, rfl, .refl _⟩

/-- A bus side without turns keeps none. -/
theorem reach_turns {lo hi : Nat} {x y : Io} (h : BusReach lo hi x y) (hx : x.turns = []) : y.turns = [] := by
  induction h with
  | refl io => exact hx
  | turn io => rw [takeTurn_calm (hx ▸ calm_nil 1), after_of_nil hx]; exact hx
  | store a w io hlo hhi => exact hx
  | hand e c src d0 d1 d2 io => exact (hand_turns ..).trans hx
  | take c io => exact (setCls_turns ..).trans hx
  | fault io => exact hx
  | trans h g ihh ihg => exact ihg (ihh hx)
  | _ => exact (setCls_turns ..).trans hx

/-- The bus side after a frame's work is reached from the one before it. -/
theorem served_reach (u : State) (order : List Worker) : BusReach (winLo u) (winHi u) u.io (served u order) := by
  unfold served
  split
  · have hkeeps := frameWork_keeps u order
    rw [frameWork_eq] at hkeeps
    exact hkeeps.bus
  · exact .refl _

/-! ## The highway ports -/

theorem opened_sh (p : SeatPort) : p.opened = if p.restart = true then
    { p with running := true, current := p.adopted, restart := false, mics := [],
             slots := Vector.replicate 32 ⟨⟨false, 0⟩, ⟨false, 0⟩, ⟨false, 0⟩⟩ }
    else { p with mics := [] } := rfl

theorem opened_nh (p : NetPort) : p.opened = if p.restart = true then
    { p with
      current := p.adopted, restart := false
      lock := if p.adopted.enable = true ∧ p.adopted.lead = false then .hunt else .down
      leadStart := p.adopted.enable && p.adopted.lead
      run := 0, miss := 0, rx := [], tx := [], lastGood := Vector.replicate 32 0, checkFailures := 0, consecutive := 0
      storm := false, rxSlips := 0, txSlips := 0, line := Vector.replicate 33 0, ys := [], fault := false }
    else { p with ys := [], fault := false } := by
  have hlock : (if (p.adopted.enable && !p.adopted.lead) = true then Lock.hunt else .down) =
      if p.adopted.enable = true ∧ p.adopted.lead = false then .hunt else .down := if_congr (by simp) rfl rfl
  rw [← hlock]
  rfl

/-! ## A seat as the frame opens -/

/-- A seat that goes on in service, or out of it, with the settings of the scan before. -/
theorem entering_iff (u : State) (k : SeatNo) : u.entering k = true ↔ u.header.serving ≤ k.val ∧ k.val < u.header.seats := by
  simp [State.entering]

/-! ## The works of a seat -/

/-- The audio work leaves what the scans work on. -/
theorem seatAudio_stands (k : SeatNo) (kept : SeatNo → Kept) (i : SeatInputs) (x : Seat) :
    (seatAudio k kept i x).seat.adopted = x.adopted ∧ (seatAudio k kept i x).seat.due = x.due ∧
      (seatAudio k kept i x).seat.blocks = x.blocks := by
  unfold seatAudio
  exact ⟨rfl, rfl, rfl⟩

theorem seatResult_serves {u : State} {k : SeatNo} (x : Seat) (io : Io) (h : k.val < u.header.serving) :
    (seatResult u k x io).1 =
      let audio := seatAudio k (fun j => u.seats[j].kept) (seatInputs u k) x
      { audio.seat with
        prompt := (endCells u.env k (promptFrame u.env k audio.plays x.prompt (handAll u.env audio.notices io))).1
        cadence := endPhase x.governing.cadence audio.seat.cadence } :=
  congrArg Prod.fst (if_pos h)

theorem seatResult_idle {u : State} {k : SeatNo} (x : Seat) (io : Io) (h : ¬ k.val < u.header.serving) :
    (seatResult u k x io).1 =
      { x with prompt := (retryCells u.env k x.prompt io).1
               kept := ⟨List.replicate 80 0, List.replicate 80 0, false, false⟩
               mixer := { x.mixer with ear := List.replicate 80 0, line := List.replicate 80 0, lineSlot := none
                                       onAir := false, whisper := false }
               cadence := settleUser x.governing.cadence false false x.cadence } :=
  congrArg Prod.fst (if_neg h)

theorem resumePrompt_eq (p : PromptUnit) : resumePrompt p = { p with
    buffer := List.replicate 80 0, filled := 0, last := false
    stage := if p.stage = .fresh then .fresh else .again } := by
  unfold resumePrompt
  cases p.stage <;> rfl

/-! ## The parts of the obligation -/

section
variable (u : State) (order : List Worker)

/-- The bus side after the reports, and after the part tick word, as the passes over the units give them. -/
theorem passes_eq : ((workersOf order).foldl unitReport
    ((workersOf order).foldl unitBacks ((workersOf order).foldl (unitWork u) u))).io = (reported u order).io := by
  rw [(worked_within u order).1, (backed_within u order).1, (reported_within u order).1]

theorem served_eq : (if u.running = true then serveNotices u.env (heldReads u.env
    (writeRecord u.env .header [(u.area.toNat + 0x28, u.frame)] ((workersOf order).foldl unitReport
      ((workersOf order).foldl unitBacks ((workersOf order).foldl (unitWork u) u))).io).2) else u.io) = served u order := by
  rw [passes_eq]
  rfl

theorem turned_sh : (turned u order).sh = if u.running = true ∧ ¬ u.regs.run = true then u.sh.opened.stop
    else u.sh.opened := congrArg State.sh (turned_eq u order)

theorem turned_nh : (turned u order).nh = if u.running = true ∧ ¬ u.regs.run = true then u.nh.opened.stop
    else if ¬ u.running = true ∧ u.regs.run = true then u.nh.opened.resume else u.nh.opened :=
  congrArg State.nh (turned_eq u order)

/-- The Seat Highway Port of the frame that opens. -/
theorem openedFrame_sh : (openedFrame u order).sh = { u.sh.opened with slots := (openedFrame u order).sh.slots } ∧
    ∀ k : SeatNo, (openedFrame u order).sh.slots[k] = if u.running = true ∧ ¬ u.regs.run = true then
      ⟨⟨u.sh.opened.slots[k].present.settled.value, 0⟩, ⟨u.sh.opened.slots[k].muteKey.settled.value, 0⟩,
        ⟨u.sh.opened.slots[k].talkKey.settled.value, 0⟩⟩ else u.sh.opened.slots[k] := by
  rw [(openedFrame_ports u order).1, turned_sh]
  by_cases h : u.running = true ∧ ¬ u.regs.run = true
  · rw [if_pos h]
    refine ⟨rfl, fun k => ?_⟩
    rw [if_pos h]
    exact tabulate_get ..
  · rw [if_neg h]
    refine ⟨rfl, fun k => ?_⟩
    rw [if_neg h]

/-- The Network Highway Port of the frame that opens. -/
theorem openedFrame_nh : (openedFrame u order).nh =
    if u.running = true ∧ ¬ u.regs.run = true then { u.nh.opened with rx := [], tx := [] }
    else if ¬ u.running = true ∧ u.regs.run = true ∧ u.nh.opened.lock = .locked then
      { u.nh.opened with rx := List.replicate 32 ⟨Vector.replicate 32 0, false⟩
                         tx := List.replicate 32 (Vector.replicate 32 0) }
    else u.nh.opened := by
  rw [(openedFrame_ports u order).2.1, turned_nh]
  by_cases hstop : u.running = true ∧ ¬ u.regs.run = true
  · rw [if_pos hstop, if_pos hstop]
    rfl
  · rw [if_neg hstop, if_neg hstop]
    by_cases hstart : ¬ u.running = true ∧ u.regs.run = true
    · obtain ⟨hstopped, hruns⟩ := hstart
      have hcond : (¬ u.running = true ∧ u.regs.run = true ∧ u.nh.opened.lock = .locked) ↔ u.nh.opened.lock = .locked := by
        rw [and_iff_right hstopped, and_iff_right hruns]
      rw [if_pos ⟨hstopped, hruns⟩, if_congr hcond rfl rfl]
      rfl
    · have hno : ¬ (¬ u.running = true ∧ u.regs.run = true ∧ u.nh.opened.lock = .locked) :=
        fun ⟨hstopped, hruns, _⟩ => hstart ⟨hstopped, hruns⟩
      rw [if_neg hstart, if_neg hno]

/-- The host tick word that the monitor reads on a bus without turns. -/
theorem wordRead_quiet (h : u.io.turns = []) : (wordRead u order).1 =
    some (readMemWord (u.regs.stationBase.toNat + 0x24) (served u order).mem) := by
  have hturns : (served u order).turns = [] := reach_turns (served_reach u order) h
  rw [wordRead, readReporting_calm _ _ _ _ (hturns ▸ calm_nil 1)]

/-- The monitor's part of the boundary, on the bus side that the works have left. -/
theorem openedFrame_monitor {io : Io} (h : io = served u order) :
    let read := readReporting (openedFrame u order).env .header 0 (u.regs.stationBase.toNat + 0x24) io
    (u.io.turns = [] → read.1 = some (readMemWord (u.regs.stationBase.toNat + 0x24) io.mem)) ∧
    (openedFrame u order).tick = (if u.regs.run = true then (counted u).observe read.1 else counted u) ∧
    (openedFrame u order).io = if ¬ u.regs.run = true then io
      else if u.tick.standalone = true ∧ (openedFrame u order).tick.standalone = false then
        hand (openedFrame u order).env .resumed .tickMonitor (read.1.getD 0) (BitVec.ofNat 32 (counted u).aloneFrames) 0
          read.2
      else read.2 := by
  subst h
  exact ⟨wordRead_quiet u order, openedFrame_tick u order, openedFrame_io u order⟩

/-- A stopped seat that the part resumes. -/
theorem resumeSeat_eq (x : Seat) : resumeSeat x = { x with
    prompt := { x.prompt with
      buffer := List.replicate 80 0, filled := 0, last := false
      stage := if x.prompt.stage = .fresh then .fresh else .again }
    kept := ⟨List.replicate 80 0, List.replicate 80 0, false, false⟩
    mixer := { x.mixer with ear := List.replicate 80 0, line := List.replicate 80 0, lineSlot := none
                            onAir := false, whisper := false }
    canceller := { x.canceller with history := List.replicate 2048 0, power := 0, level := 0, talk := 0 }
    suppressor := { x.suppressor with voice := false, hangover := 0 } } := by
  rw [← resumePrompt_eq]
  rfl

/-- A seat as the frame that opens finds it: with the settings of the scan before, and with its initial values when it
comes into service. -/
theorem openedFrame_fields (k : SeatNo) (x y : Seat) (hy : (turned u order).seats[k] = y)
    (hx : y.adopted = x.adopted ∧ y.due = x.due ∧ y.blocks = x.blocks) :
    let zeros : List Sample := List.replicate 80 0
    let z : Seat :=
      { y with governing := x.adopted, keyMute := y.keyMute && !x.due.clearKeyMute
               canceller := promoteCanceller x.blocks.length x.due.zeroTaps y.canceller
               suppressor := { y.suppressor with initDue := x.due.initSuppressor }
               cadence := { y.cadence with due := x.due.reminder, newPeriod := x.due.newPeriod }
               due := ⟨false, false, false, none, false⟩ }
    (openedFrame u order).seats[k] = if ¬ u.regs.run = true then y
      else if u.header.serving ≤ k.val ∧ k.val < u.header.seats then
        { z with status := ⟨false, false, false⟩, suppressor := ⟨1024, 16384, 0, false, 0, false⟩
                 arbiter := ⟨16384, 20, false⟩, kept := ⟨zeros, zeros, false, false⟩
                 cadence := ⟨.stopped, 0, z.cadence.position, false, none, false⟩
                 mixer := ⟨zeros, zeros, none, false, false, 0, 0⟩
                 canceller := { z.canceller with
                   history := List.replicate 2048 0, power := 0, level := 0, talk := 0, convergenceRun := 0, lossRun := 0
                   ex := 0, ey := 0, ee := 0 } }
      else z := by
  have hopen : openSeat (u.entering k) y =
      if u.header.serving ≤ k.val ∧ k.val < u.header.seats then enterService (promoteSeat y) else promoteSeat y :=
    if_congr (entering_iff u k) rfl rfl
  obtain ⟨hadopted, hdue, hblocks⟩ := hx
  rw [openedFrame_seat, hy, hopen, ← hadopted, ← hdue, ← hblocks]
  rfl

end

section
variable (u : State) (order : List Worker)

/-- The timeline and the ports after the boundary, with its scans or without. -/
theorem outcome_timeline {t : State} (h : Keeps 0 0 (openedFrame u order) t) :
    t.frame = u.frame + 1 ∧ t.cycle = 0 ∧ t.running = u.regs.run ∧
    t.area = (if u.regs.run = true then u.regs.stationBase else u.area) ∧ t.sh.mics = [] ∧ t.nh.ys = [] ∧
    t.nh.fault = false := by
  have hopened := openedFrame_eq u order
  have hmics : (openedFrame u order).sh.mics = [] := by
    rw [(openedFrame_sh u order).1, opened_sh]
    split <;> rfl
  have hys : u.nh.opened.ys = [] ∧ u.nh.opened.fault = false := by
    rw [opened_nh]
    split <;> exact ⟨rfl, rfl⟩
  have hnh : (openedFrame u order).nh.ys = [] ∧ (openedFrame u order).nh.fault = false := by
    rw [openedFrame_nh]
    split
    · exact hys
    · split <;> exact hys
  have hfault : t.nh.fault = (openedFrame u order).nh.fault := by
    have hcore := congrArg NetPort.fault h.netCore
    exact hcore
  refine ⟨h.frame.trans ?_, h.cycle.trans ?_, h.running.trans ?_, h.area.trans ?_, h.mics.trans hmics, h.ys.trans hnh.1,
    hfault.trans hnh.2⟩ <;> rw [hopened]

/-- A seat after a frame of work, in service or out of it, and after a frame in which the part was stopped. -/
theorem openedFrame_seatCases (k : SeatNo) :
    let zeros : List Sample := List.replicate 80 0
    let quiet (m : Mixer) : Mixer :=
      { m with ear := zeros, line := zeros, lineSlot := none, onAir := false, whisper := false }
    let x := u.seats[k]
    let audio := seatAudio k (fun j => u.seats[j].kept) (seatInputs u k) x
    ∃ p : PromptUnit,
      (u.running = true → ∃ io, (order.head? = some (.seat k) → io = u.io) ∧ p = if k.val < u.header.serving then
          (endCells u.env k (promptFrame u.env k audio.plays x.prompt (handAll u.env audio.notices io))).1
        else (retryCells u.env k x.prompt io).1) ∧
      (¬ u.running = true → u.regs.run = true → p = { x.prompt with
        buffer := zeros, filled := 0, last := false
        stage := if x.prompt.stage = .fresh then .fresh else .again }) ∧
      (¬ u.running = true → ¬ u.regs.run = true → p = x.prompt) ∧
      (turned u order).seats[k] =
        if u.running = true ∧ k.val < u.header.serving then
          { audio.seat with prompt := p, cadence := endPhase x.governing.cadence audio.seat.cadence }
        else if u.running = true then
          { x with prompt := p, kept := ⟨zeros, zeros, false, false⟩, mixer := quiet x.mixer
                   cadence := settleUser x.governing.cadence false false x.cadence }
        else if u.regs.run = true then
          { x with prompt := p, kept := ⟨zeros, zeros, false, false⟩, mixer := quiet x.mixer
                   canceller := { x.canceller with history := List.replicate 2048 0, power := 0, level := 0, talk := 0 }
                   suppressor := { x.suppressor with voice := false, hangover := 0 } }
        else x := by
  intro zeros quiet x audio
  obtain ⟨hworked, hstood⟩ := turned_seat u order k
  by_cases hworks : u.running = true
  · obtain ⟨io, hfirst, hseat⟩ := hworked hworks
    by_cases hserves : k.val < u.header.serving
    · refine ⟨_, fun _ => ⟨io, hfirst, rfl⟩, fun h => absurd hworks h, fun h => absurd hworks h, ?_⟩
      rw [if_pos ⟨hworks, hserves⟩, if_pos hserves, hseat]
      exact seatResult_serves _ io hserves
    · have hno : ¬ (u.running = true ∧ k.val < u.header.serving) := fun h => hserves h.2
      refine ⟨_, fun _ => ⟨io, hfirst, rfl⟩, fun h => absurd hworks h, fun h => absurd hworks h, ?_⟩
      rw [if_neg hno, if_pos hworks, if_neg hserves, hseat]
      exact seatResult_idle _ io hserves
  · have hno : ¬ (u.running = true ∧ k.val < u.header.serving) := fun h => hworks h.1
    by_cases hruns : u.regs.run = true
    · refine ⟨_, fun h => absurd h hworks, fun _ _ => rfl, fun _ h => absurd hruns h, ?_⟩
      rw [if_neg hno, if_neg hworks, hstood hworks, if_pos hruns, if_pos hruns]
      exact resumeSeat_eq _
    · refine ⟨_, fun h => absurd h hworks, fun _ h => absurd h hruns, fun _ _ => rfl, ?_⟩
      rw [if_neg hno, if_neg hworks, hstood hworks, if_neg hruns, if_neg hruns]

end

/-- Settles O18, part by part: the works, RUN, the frame that opens, the monitor and the scans. -/
theorem frameBoundaryCompletes : Obligations.FrameBoundaryCompletes := by
  unfold Obligations.FrameBoundaryCompletes
  intro turns order s hcycle
  have hexec : exec (.frameBoundary turns order) s = .next ((s.loadTurns turns).boundary order).drained :=
    congrArg Host.Outcome.next (if_pos hcycle)
  have hreaches := boundary_reaches (s.loadTurns turns) order
  have hsettled := settleExpiry_settled (s.loadTurns turns)
  have hboundary := boundary_eq order (s.loadTurns turns)
  have hu : (if s.tick.expired = true then (s.loadTurns turns).expireAndScan else s.loadTurns turns) =
      (s.loadTurns turns).settleExpiry := rfl
  have hturns : turns = [] → (s.loadTurns turns).settleExpiry.io.turns = [] := fun h =>
    reach_turns hsettled.bus h
  generalize (s.loadTurns turns).settleExpiry = u at hsettled hboundary hu hturns
  have hkeeps : Keeps 0 0 (openedFrame u order) ((s.loadTurns turns).boundary order) := by
    rw [hboundary]
    split
    · exact scans_keeps _
    · exact .refl _
  obtain ⟨htframe, htcycle, htrunning, htarea, hmics, hys, hfault⟩ := outcome_timeline u order hkeeps
  obtain ⟨-, hregs, hframe, hrunning, harea, -⟩ := hsettled
  have hpending := hreaches.pending
  have hregs' := hreaches.regs
  generalize (s.loadTurns turns).boundary order = t at *
  obtain ⟨pending, regs, frame, cycle, running, area, io, tick, header, sh, nh, seats, streams, pool, slotMap⟩ := s
  obtain rfl : u.regs = regs := hregs
  obtain rfl : u.frame = frame := hframe
  obtain rfl : u.running = running := hrunning
  obtain rfl : u.area = area := harea
  refine ⟨t.drained, hexec, hpending, hregs', htframe, htcycle, htrunning, htarea, hmics, hys, hfault, rfl, ?_⟩
  intro loaded u' works goes zeros history quiet
  have hu' : u' = u := hu
  clear_value u'
  subst hu'
  refine ⟨openedFrame u' order, openedFrame_eq u' order, congrArg State.drained hboundary, ⟨?notices, ?monitor⟩,
    ?sh, ?nh, ?seats, ?streams, ?scans⟩
  case notices =>
    intro hworks
    refine (congrArg Io.seatClass (passes_eq u' order)).trans ((reported_seatClass u' order).trans ?_)
    exact congrArg (fun ns => (handAll u'.env ns u'.io).seatClass) (List.flatMap_congr fun w _ => by cases w <;> rfl)
  case monitor =>
    obtain ⟨hword, htick, hio⟩ := openedFrame_monitor u' order (served_eq u' order)
    exact ⟨fun hnone => hword (hturns hnone), htick, hio⟩
  case sh => exact openedFrame_sh u' order
  case nh =>
    intro cycle p
    have h := openedFrame_nh u' order
    rw [opened_nh] at h
    exact h
  case seats =>
    intro k x serves enters audio
    obtain ⟨p, hworked, hresumed, hstood, hseat⟩ := openedFrame_seatCases u' order k
    refine ⟨p, hworked, hresumed, hstood, ?_⟩
    refine openedFrame_fields u' order k x _ hseat ?_
    have haudio : audio.seat.adopted = x.adopted ∧ audio.seat.due = x.due ∧ audio.seat.blocks = x.blocks :=
      seatAudio_stands ..
    split
    · exact haudio
    · split
      · exact ⟨rfl, rfl, rfl⟩
      · split <;> exact ⟨rfl, rfl, rfl⟩
  case streams =>
    intro j st
    rw [(openedFrame_ports u' order).2.2]
    exact turned_stream u' order j
  case scans =>
    intro hruns
    have hcase : t = (openedFrame u' order).scans ∨ t = openedFrame u' order := by
      rw [hboundary]
      split
      · exact .inl rfl
      · exact .inr rfl
    obtain rfl | rfl := hcase
    · exact ⟨scans_seats _, scans_stream _, scans_ports _⟩
    · exact ⟨fun k => SeatScanned.refl _, fun j => ⟨rfl, rfl, fun _ => rfl⟩, rfl, rfl, rfl⟩

end Sys2Proof.BoundaryOutcome
end

section
/-! Where in host memory each part of a frame of work writes, on a bus without turns. -/

namespace Sys2Proof.MemoryWrites

open Sys2Proof.Machine Sys2Proof.Laws Sys2Proof.BusSide Sys2Proof.CalmBus Sys2Proof.RecordWrites Sys2Proof.FrameUnits
  Sys2Proof.BoundaryOutcome Sys2Proof.CueCells Sys2Proof.StreamFetching Sys2Proof.Expiry

/-- A bus side without turns, whose memory is in its canonical form. -/
structure Calm (io : Io) : Prop where
  turns : io.turns = []
  wf : memoryWf io.mem = true

/-- From a calm bus side, `y` is a calm one whose memory differs from that of `x` at addresses in `S` alone. -/
structure WritesWithin (S : Nat → Prop) (x y : Io) : Prop where
  of_calm : Calm x → Calm y ∧ ∀ a, ¬ S a → readByte a y.mem = readByte a x.mem

namespace WritesWithin

variable {S T : Nat → Prop} {x y z : Io}

theorem refl (S : Nat → Prop) (x : Io) : WritesWithin S x x := ⟨fun hx => ⟨hx, fun _ _ => rfl⟩⟩

theorem trans (h : WritesWithin S x y) (g : WritesWithin S y z) : WritesWithin S x z := by
  refine ⟨fun hx => ?_⟩
  obtain ⟨hy, hxy⟩ := h.of_calm hx
  obtain ⟨hz, hyz⟩ := g.of_calm hy
  exact ⟨hz, fun a ha => (hyz a ha).trans (hxy a ha)⟩

theorem mono (h : WritesWithin S x y) (hS : ∀ a, S a → T a) : WritesWithin T x y := by
  refine ⟨fun hx => ?_⟩
  obtain ⟨hy, hxy⟩ := h.of_calm hx
  exact ⟨hy, fun a ha => hxy a fun hs => ha (hS a hs)⟩

/-- Two pieces of work one after the other write where either writes. -/
theorem trans_or (h : WritesWithin S x y) (g : WritesWithin T y z) : WritesWithin (fun a => S a ∨ T a) x z :=
  (h.mono fun _ => .inl).trans (g.mono fun _ => .inr)

theorem word (h : WritesWithin S x y) (hx : Calm x) {a : Nat} (hS : ∀ b, a ≤ b → b < a + 4 → ¬ S b) :
    readMemWord a y.mem = readMemWord a x.mem :=
  readMemWord_congr fun b hlo hhi => (h.of_calm hx).2 b (hS b hlo hhi)

/-- Moves of the bus side with no write of a word. -/
theorem of_reach (h : BusReach 0 0 x y) : WritesWithin S x y := by
  refine ⟨fun hx => ⟨⟨reach_turns h hx.turns, reach_wf h hx.wf⟩, fun a _ => ?_⟩⟩
  have hnone : noHostWriteAt a x.turns := fun t ht => absurd (hx.turns ▸ ht) List.not_mem_nil
  exact (reach_quiet (a := a) (v := readByte a x.mem) h (by omega) ⟨hx.wf, hnone, rfl⟩).byte

theorem foldl {α β : Type} {f : β → α → β} {io : β → Io} (l : List α) (h : ∀ b, ∀ a ∈ l, WritesWithin S (io b) (io (f b a)))
    (b : β) : WritesWithin S (io b) (io (l.foldl f b)) :=
  List.foldlRecOn l f (motive := fun c => WritesWithin S (io b) (io c)) (.refl S _) fun c hc a ha => hc.trans (h c a ha)

end WritesWithin

/-! ## Records -/

/-- The addresses of words. -/
def spans (ws : List (Nat × Word)) (a : Nat) : Prop := ∃ x ∈ ws, x.1 ≤ a ∧ a < x.1 + 4

theorem writeRecord_within (e : Env) (src : Source) (ws : List (Nat × Word)) (io : Io) :
    WritesWithin (spans ws) io (writeRecord e src ws io).2 := by
  refine ⟨fun hio => ?_⟩
  obtain ⟨-, hbus⟩ := writeRecord_quiet e src ws hio.turns
  rw [hbus]
  refine ⟨⟨rfl, putWords_wf hio.wf⟩, fun a ha => readByte_putWords_other hio.wf fun x hx => ?_⟩
  obtain ⟨hmem, -⟩ := mem_insideOf.1 hx
  by_contra hat
  exact ha ⟨x, hmem, by omega⟩

/-- Words at consecutive addresses. -/
theorem mem_placed {base : Nat} {ws : List Word} {x : Nat × Word} :
    x ∈ placed base ws ↔ ∃ i, ∃ h : i < ws.length, x = (base + 4 * i, ws[i]) := by
  simp only [placed, List.mem_mapIdx, eq_comm]

theorem placed_apart (base : Nat) (ws : List Word) :
    (placed base ws).Pairwise fun x y => x.1 + 4 ≤ y.1 ∨ y.1 + 4 ≤ x.1 := by
  rw [List.pairwise_iff_getElem]
  intro i j hi hj hij
  simp only [placed, List.getElem_mapIdx]
  omega

theorem placed_within (e : Env) (src : Source) (base : Nat) (ws : List Word) (io : Io) :
    WritesWithin (fun a => base ≤ a ∧ a < base + 4 * ws.length) io (writeRecord e src (placed base ws) io).2 := by
  refine (writeRecord_within ..).mono ?_
  rintro a ⟨x, hx, hat⟩
  obtain ⟨i, hi, rfl⟩ := mem_placed.1 hx
  dsimp only at hat
  omega

/-- A record that the window takes reads back word by word. -/
theorem placed_reads {e : Env} {base : Nat} {ws : List Word} {io : Io} (src : Source) (hio : Calm io)
    (hin : e.lo ≤ base ∧ base + 4 * ws.length ≤ e.hi) {i : Nat} (hi : i < ws.length) :
    readMemWord (base + 4 * i) (writeRecord e src (placed base ws) io).2.mem = ws.getD i 0 := by
  obtain ⟨-, hbus⟩ := writeRecord_quiet e src (placed base ws) hio.turns
  have hall : ∀ x ∈ placed base ws, e.lo ≤ x.1 ∧ x.1 + 4 ≤ e.hi := by
    intro x hx
    obtain ⟨m, hm, rfl⟩ := mem_placed.1 hx
    dsimp only
    omega
  rw [hbus, insideOf_all hall]
  have hread := readMemWord_putWords hio.wf (placed_apart base ws) (base + 4 * i, ws[i]) (mem_placed.2 ⟨i, hi, rfl⟩)
  rw [List.getD_eq_getElem ws 0 hi]
  exact hread

/-! ## Cells, segments and notice slots -/

/-- The cue cells of the station area. -/
def cellsOf (area a : Nat) : Prop := area + 0x3000 ≤ a ∧ a < area + 0x3800

theorem cellWords_within (e : Env) (k : SeatNo) (c : CellNo) (samples : Option Nat) (w : Word) (io : Io) :
    WritesWithin (cellsOf e.area) io (writeRecord e (.seat k) (cellWords e k c samples w) io).2 := by
  refine (writeRecord_within ..).mono ?_
  rintro a ⟨x, hx, hat⟩
  have hcell : cellAt e.area k c = e.area + 0x3000 + 64 * k.val + 16 * c.val := rfl
  unfold cellsOf
  obtain ⟨n, -, rfl⟩ | rfl := mem_cellWords.1 hx
  · dsimp only at hat
    omega
  · dsimp only at hat
    omega

theorem retryCells_within (e : Env) (k : SeatNo) (p : PromptUnit) (io : Io) :
    WritesWithin (cellsOf e.area) io (retryCells e k p io).2 :=
  .foldl (f := retryCell e k) (io := Prod.snd) p.owedInOrder (fun _ _ _ => cellWords_within ..) ({ p with owed := [] }, io)

theorem endCells_within (e : Env) (k : SeatNo) (f : PromptFrame) :
    WritesWithin (cellsOf e.area) f.io (endCells e k f).2 := by
  refine .trans (retryCells_within e k f.unit f.io) (.foldl (f := makeWrite e k) (io := Prod.snd) _ (fun x w _ => ?_) _)
  have hwrite := cellWords_within e k w.cell w.samples w.outcome.word x.2
  unfold makeWrite
  dsimp only
  split
  · exact hwrite
  · dsimp only
    split
    · exact hwrite.trans (.of_reach (.hand ..))
    · exact hwrite

/-- The stream entries of the station area. -/
def entriesOf (area a : Nat) : Prop := area + 0x400 ≤ a ∧ a < area + 0x600

theorem writeSegment_within (e : Env) (j : StreamNo) (g : Segment) (address : Word) (count : Nat) (io : Io) :
    WritesWithin (entriesOf e.area) io (writeSegment e j g address count io).2 := by
  refine (writeRecord_within ..).mono ?_
  rintro a ⟨x, hx, hat⟩
  have hentry : streamAt e.area j = e.area + 0x400 + 32 * j.val := rfl
  have haddress : addressAt e.area j g = streamAt e.area j + 0x10 ∨ addressAt e.area j g = streamAt e.area j + 0x18 := by
    cases g with
    | a => exact .inl rfl
    | b => exact .inr rfl
  have hcount : countAt e.area j g = streamAt e.area j + 0x0C ∨ countAt e.area j g = streamAt e.area j + 0x14 := by
    cases g with
    | a => exact .inl rfl
    | b => exact .inr rfl
  unfold entriesOf
  obtain rfl | rfl : x = (addressAt e.area j g, address) ∨ x = (countAt e.area j g, BitVec.ofNat 32 count) := by
    simpa using hx
  · dsimp only at hat
    omega
  · dsimp only at hat
    omega

theorem writeBacks_within (e : Env) (j : StreamNo) (st : Stream) (io : Io) :
    WritesWithin (entriesOf e.area) io (writeBacks e j st io).2 := by
  have hretry (p : Stream × Io) (g : Segment) : WritesWithin (entriesOf e.area) p.2 (retryOwed e j p g).2 := by
    unfold retryOwed
    split
    · exact .refl _ _
    · exact writeSegment_within ..
  have hback (p : Stream × Io) (b : WriteBack) : WritesWithin (entriesOf e.area) p.2 (writeBackOne e j p b).2 :=
    writeSegment_within ..
  exact .trans (.foldl (io := Prod.snd) [Segment.a, Segment.b] (fun p g _ => hretry p g) (st, io))
    (.foldl (f := writeBackOne e j) (io := Prod.snd) st.backs (fun p b _ => hback p b) _)

/-- The notice slots of the station area. -/
def slotsOf (area a : Nat) : Prop := area + 0x100 ≤ a ∧ a < area + 0x200

theorem writeUntil_within (e : Env) (ws : List (Nat × Word)) (io : Io) :
    WritesWithin (spans ws) io (writeUntil e ws io).2 := by
  induction ws generalizing io with
  | nil => exact .refl _ _
  | cons x ws ih =>
    have hrest : ∀ a, spans ws a → spans (x :: ws) a := fun a ⟨y, hy, hat⟩ => ⟨y, List.mem_cons_of_mem _ hy, hat⟩
    have hword : WritesWithin (spans (x :: ws)) io (writeWord e x.1 x.2 io).2 := by
      refine ⟨fun hio => ?_⟩
      by_cases hin : e.lo ≤ x.1 ∧ x.1 + 4 ≤ e.hi
      · rw [writeWord_calm x.2 hin (hio.turns ▸ calm_nil 1), after_of_nil hio.turns]
        refine ⟨⟨hio.turns, writeMemWord_wf hio.wf⟩, fun a ha => readByte_writeMemWord_other hio.wf ?_⟩
        by_contra hat
        exact ha ⟨x, List.mem_cons_self, by omega⟩
      · rw [writeWord_refused x.2 hin]
        exact ⟨hio, fun _ _ => rfl⟩
    unfold writeUntil
    dsimp only
    split
    · exact hword.trans ((ih _).mono hrest)
    · exact hword
    · exact hword

theorem serveClass_within (e : Env) (s : Serving) (c : NoticeClass) :
    WritesWithin (slotsOf e.area) s.io (serveClass e s c).io := by
  have hslot : slotAt e.area c + 32 ≤ e.area + 0x200 ∧ e.area + 0x100 ≤ slotAt e.area c := by
    have hat : slotAt e.area c = e.area + 0x100 + 32 * c.number := rfl
    have hnumber : c.number < 8 := by cases c <;> decide
    omega
  have hwords (n : Notice) (io : Io) : WritesWithin (slotsOf e.area) io
      (writeUntil e (slotWords (slotAt e.area c) n ++ [(slotAt e.area c, 1)]) io).2 := by
    refine (writeUntil_within ..).mono ?_
    rintro a ⟨x, hx, hat⟩
    have hplace : slotAt e.area c ≤ x.1 ∧ x.1 + 4 ≤ slotAt e.area c + 32 := by
      simp only [slotWords, List.mem_append, List.mem_cons, List.not_mem_nil, or_false] at hx
      obtain (rfl | rfl | rfl | rfl | rfl | rfl | rfl) | rfl := hx <;> dsimp only <;> omega
    unfold slotsOf
    omega
  have hentry (n : Notice) (r : Serving) : WritesWithin (slotsOf e.area) r.io (serveEntry e c n r).io := by
    unfold serveEntry
    dsimp only
    split
    · exact (hwords n r.io).trans (.of_reach (.show ..))
    · exact (hwords n r.io).trans (.of_reach (.fault _))
    · exact hwords n r.io
  unfold serveClass
  split
  · exact .refl _ _
  · split
    · exact .refl _ _
    · next n rest h =>
      refine .trans (.of_reach ?_) (hentry n _)
      have htake := BusReach.take (lo := 0) (hi := 0) c s.io
      rwa [h] at htake

theorem serveNotices_within (e : Env) (io : Io) : WritesWithin (slotsOf e.area) io (serveNotices e io) :=
  .trans (.foldl (f := serveClass e) (io := Serving.io) classes (fun _ _ _ => serveClass_within ..) { io := io, later := [] })
    (.of_reach (handAll_reach ..))

end Sys2Proof.MemoryWrites
end

section
/-! What a frame of work leaves in host memory (O20): each record reads back, since whatever the part writes after it lies
in other parts of the station area. -/

namespace Sys2Proof.StationReports

open Sys2Proof.Machine Sys2Proof.Laws Sys2Proof.BusSide Sys2Proof.CalmBus Sys2Proof.FrameUnits Sys2Proof.FrameBoundary
  Sys2Proof.BoundaryOutcome Sys2Proof.Expiry Sys2Proof.MemoryWrites

/-! ## Where each pass writes -/

/-- The `n` bytes from `base` on. -/
def block (base n a : Nat) : Prop := base ≤ a ∧ a < base + n

/-- Where a unit writes in the pass of the works: a seat into its cells and, in service, into its report. -/
def worksAt (u : State) : Worker → Nat → Prop
  | .seat k, a => cellsOf u.area.toNat a ∨ k.val < u.header.serving ∧ block (u.area.toNat + 0x2000 + 128 * k.val) 128 a
  | .stream _, _ => False

/-- Where a unit writes in the pass of the write-backs. -/
def backsAt (u : State) : Worker → Nat → Prop
  | .seat _, _ => False
  | .stream _, a => entriesOf u.area.toNat a

/-- Where a unit writes in the pass of the stream reports. -/
def reportsAt (u : State) : Worker → Nat → Prop
  | .seat _, _ => False
  | .stream j, a => ¬ u.header.silent = true ∧ block (u.area.toNat + 0x0C00 + 32 * j.val) 32 a

section
variable {seat : SeatNo → Seat → Io → Seat × Io} {stream : StreamNo → Stream → Io → Stream × Io}
  {places : Worker → Nat → Prop}

/-- A pass writes where its units write. -/
theorem foldl_doUnit_within (hseat : ∀ k x io, WritesWithin (places (.seat k)) io (seat k x io).2)
    (hstream : ∀ j st io, WritesWithin (places (.stream j)) io (stream j st io).2) (l : List Worker) (s : State) :
    WritesWithin (fun a => ∃ w ∈ l, places w a) s.io (l.foldl (doUnit seat stream) s).io := by
  refine .foldl (f := doUnit seat stream) (io := State.io) l (fun t w hw => ?_) s
  cases w with
  | seat k => exact (hseat k t.seats[k] t.io).mono fun a ha => ⟨_, hw, ha⟩
  | stream j => exact (hstream j t.streams[j] t.io).mono fun a ha => ⟨_, hw, ha⟩

end

theorem seatReport_length (frame : Word) (x : Seat) (phase : Phase) (fallback : Bool) :
    (seatReport frame x phase fallback).length = 32 := rfl

/-- A seat report shows the phase and the user that the cadence unit had in the frame, not those it ends with. -/
theorem seatReport_cadence (frame : Word) (x : Seat) (c : CadenceUnit) (phase : Phase) (fallback : Bool) :
    seatReport frame { x with cadence := c } phase fallback = seatReport frame x phase fallback := rfl

theorem seatReport_inside (area : Nat) (k : SeatNo) :
    area ≤ seatReportAt area k ∧ seatReportAt area k + 4 * 32 ≤ area + 16384 := by
  have hat : seatReportAt area k = area + 0x2000 + 128 * k.val := rfl
  omega

theorem streamReport_inside (area : Nat) (j : StreamNo) :
    area ≤ streamReportAt area j ∧ streamReportAt area j + 4 * 8 ≤ area + 16384 := by
  have hat : streamReportAt area j = area + 0x0C00 + 32 * j.val := rfl
  omega

theorem streamReport_length (frame : Word) (st : Stream) : (streamReport frame st).length = 8 := rfl

/-- A seplacess frame work up to its report writes into its cells alone. -/
theorem cellWork_within (e : Env) (k : SeatNo) (plays : Bool) (p : PromptUnit) (ns : List NoticeOut) (io : Io) :
    WritesWithin (cellsOf e.area) io (endCells e k (promptFrame e k plays p (handAll e ns io))).2 :=
  .trans (.of_reach (.trans (handAll_reach ..) (promptFrame_reach ..))) (endCells_within ..)

theorem frameWorkSeat_within (e : Env) (k : SeatNo) (kept : SeatNo → Kept) (i : SeatInputs) (x : Seat) (io : Io) :
    WritesWithin (fun a => cellsOf e.area a ∨ block (e.area + 0x2000 + 128 * k.val) 128 a) io
      (frameWorkSeat e k kept i x io).2 := by
  have hcells := cellWork_within e k (seatAudio k kept i x).plays x.prompt (seatAudio k kept i x).notices io
  unfold frameWorkSeat
  dsimp only
  generalize seatAudio k kept i x = audio at hcells ⊢
  generalize endCells e k (promptFrame e k audio.plays x.prompt (handAll e audio.notices io)) = c at hcells ⊢
  have hreport := placed_within e (.seat k) (seatReportAt e.area k) (seatReport e.frame
    { audio.seat with prompt := c.1, cadence := endPhase x.governing.cadence audio.seat.cadence }
    audio.seat.cadence.phase audio.seat.cadence.fallback) c.2
  exact .trans (hcells.mono fun _ ha => .inl ha) (hreport.mono fun _ ha => .inr ha)

/-- The report that a seplacess frame work leaves. -/
theorem frameWorkSeat_reads {e : Env} (k : SeatNo) (kept : SeatNo → Kept) (inputs : SeatInputs) (x : Seat) {io : Io}
    (hio : Calm io) (hin : e.lo ≤ e.area ∧ e.area + 16384 ≤ e.hi) :
    let audio := seatAudio k kept inputs x
    let p := (endCells e k (promptFrame e k audio.plays x.prompt (handAll e audio.notices io))).1
    ∀ i, i < 32 → readMemWord (e.area + 0x2000 + 128 * k.val + 4 * i) (frameWorkSeat e k kept inputs x io).2.mem =
      (seatReport e.frame { audio.seat with prompt := p } audio.seat.cadence.phase audio.seat.cadence.fallback).getD i 0 := by
  have hcells := (cellWork_within e k (seatAudio k kept inputs x).plays x.prompt (seatAudio k kept inputs x).notices io).of_calm hio
  unfold frameWorkSeat
  dsimp only
  generalize seatAudio k kept inputs x = audio at hcells ⊢
  generalize endCells e k (promptFrame e k audio.plays x.prompt (handAll e audio.notices io)) = c at hcells ⊢
  obtain ⟨hcalm, -⟩ := hcells
  intro i hi
  rw [← seatReport_cadence e.frame _ (endPhase x.governing.cadence audio.seat.cadence)]
  obtain ⟨hfrom, hto⟩ := seatReport_inside e.area k
  exact placed_reads (base := seatReportAt e.area k) (.seat k) hcalm
    (by rw [seatReport_length]; exact ⟨hin.1.trans hfrom, hto.trans hin.2⟩) hi

section
variable (u : State) (order : List Worker)

theorem seatResult_within (k : SeatNo) (x : Seat) (io : Io) :
    WritesWithin (worksAt u (.seat k)) io (seatResult u k x io).2 := by
  unfold seatResult
  split
  · next hserves => exact (frameWorkSeat_within ..).mono fun _ ha => ha.imp_right fun hat => ⟨hserves, hat⟩
  · exact (retryCells_within u.env k x.prompt io).mono fun _ ha => .inl ha

theorem reportResult_within (j : StreamNo) (st : Stream) (io : Io) :
    WritesWithin (reportsAt u (.stream j)) io (reportResult u j st io).2 := by
  unfold reportResult
  split
  · exact .refl _ _
  · next hspeaks =>
    have hreport := placed_within u.env (.stream j) (streamReportAt u.area.toNat j) (streamReport u.frame st) io
    exact hreport.mono fun _ ha => ⟨hspeaks, ha⟩

theorem worksPass_within (l : List Worker) (s : State) :
    WritesWithin (fun a => ∃ w ∈ l, worksAt u w a) s.io (l.foldl (worksPass u) s).io :=
  foldl_doUnit_within (seatResult_within u) (fun _ _ _ => .of_reach (fetchStream_reach ..)) l s

theorem backsPass_within (l : List Worker) (s : State) :
    WritesWithin (fun a => ∃ w ∈ l, backsAt u w a) s.io (l.foldl (backsPass u) s).io :=
  foldl_doUnit_within (fun _ _ _ => .refl _ _) (fun j st io => writeBacks_within u.env j st io) l s

theorem reportsPass_within (l : List Worker) (s : State) :
    WritesWithin (fun a => ∃ w ∈ l, reportsAt u w a) s.io (l.foldl (reportsPass u) s).io :=
  foldl_doUnit_within (fun _ _ _ => .refl _ _) (reportResult_within u) l s

theorem ticked_within : WritesWithin (block (u.area.toNat + 0x28) 4) (reported u order).io (ticked u order) := by
  refine (writeRecord_within ..).mono ?_
  rintro a ⟨x, hx, hat⟩
  obtain rfl := List.mem_singleton.1 hx
  exact hat

theorem afterTick_within (h : u.running = true) :
    WritesWithin (slotsOf u.area.toNat) (ticked u order) (served u order) := by
  rw [served, if_pos h]
  exact .trans (.of_reach (heldReads_reach u.env _)) (serveNotices_within u.env _)

/-! ## The boundary's bus side around the works -/

/-- After the serving the boundary writes nothing. -/
theorem openedFrame_reach : BusReach 0 0 (served u order) (openedFrame u order).io := by
  have hread : BusReach 0 0 (served u order) (wordRead u order).2 := readReporting_reach ..
  rw [openedFrame_io]
  split
  · exact .refl _
  · split
    · exact .trans hread (.hand ..)
    · exact hread

theorem boundary_reach (s : State) :
    BusReach 0 0 (served s.settleExpiry order) (s.boundary order).io := by
  rw [boundary_eq]
  split
  · exact .trans (openedFrame_reach ..) (scans_keeps _).bus
  · exact openedFrame_reach ..

theorem expire_reach (s : State) : BusReach 0 0 s.io s.expire.io := by
  cases halone : s.tick.standalone with
  | true => rw [expire_alone halone]; exact .refl _
  | false =>
    cases hlate : tickLateThere s.io with
    | false => rw [expire_late halone hlate]; exact .hand ..
    | true => rw [expire_enters halone hlate, enterStandalone_state]; exact handAll_reach ..

/-- An expiry settled before the work writes nothing. -/
theorem settleExpiry_reach (s : State) : BusReach 0 0 s.io s.settleExpiry.io := by
  unfold State.settleExpiry
  split
  · exact .trans (expire_reach s) (scans_keeps _).bus
  · exact .refl _

theorem drain_within (S : Nat → Prop) (io : Io) : WritesWithin S io (drain io) := by
  refine ⟨fun hio => ?_⟩
  rw [drain, hio.turns]
  exact ⟨⟨rfl, hio.wf⟩, fun _ _ => rfl⟩

/-! ## Each record of a frame of work -/

/-- What the write-backs and the reports write. -/
theorem reported_from_worked : WritesWithin (fun a => entriesOf u.area.toNat a ∨ ∃ j : StreamNo, reportsAt u (.stream j) a)
    (worked u order).io (reported u order).io := by
  refine .trans ((backsPass_within u (workersOf order) (worked u order)).mono ?_)
    ((reportsPass_within u (workersOf order) (backed u order)).mono ?_)
  · rintro a ⟨w, -, hat⟩
    cases w with
    | seat k => exact hat.elim
    | stream j => exact .inl hat
  · rintro a ⟨w, -, hat⟩
    cases w with
    | seat k => exact hat.elim
    | stream j => exact .inr ⟨j, hat⟩

/-- What the works write. -/
theorem worked_from_start : WritesWithin (fun a => ∃ k : SeatNo, worksAt u (.seat k) a) u.io (worked u order).io := by
  refine (worksPass_within u (workersOf order) u).mono ?_
  rintro a ⟨w, -, hat⟩
  cases w with
  | seat k => exact ⟨k, hat⟩
  | stream j => exact hat.elim

/-- What the part tick word and the Notice Unit write. -/
theorem served_from_reported (h : u.running = true) : WritesWithin (fun a => block (u.area.toNat + 0x28) 4 a ∨
    slotsOf u.area.toNat a) (reported u order).io (served u order) :=
  .trans ((ticked_within u order).mono fun _ ha => .inl ha) ((afterTick_within u order h).mono fun _ ha => .inr ha)

variable {u}

/-- The report of a serving seat, once the works are done. -/
theorem worked_reads (hu : Calm u.io)
    (hin : u.regs.windowBase.toNat ≤ u.area.toNat ∧ u.area.toNat + 16384 ≤ u.regs.windowLimit.toNat) (k : SeatNo)
    (hserves : k.val < u.header.serving) : ∃ io : Io, (order.head? = some (.seat k) → io = u.io) ∧
      let audio := seatAudio k (fun j => u.seats[j].kept) (seatInputs u k) u.seats[k]
      let p := (endCells u.env k (promptFrame u.env k audio.plays u.seats[k].prompt (handAll u.env audio.notices io))).1
      ∀ i, i < 32 → readMemWord (u.area.toNat + 0x2000 + 128 * k.val + 4 * i) (worked u order).io.mem =
        (seatReport u.frame { audio.seat with prompt := p } audio.seat.cadence.phase
          audio.seat.cadence.fallback).getD i 0 := by
  obtain ⟨before, after, hsplit, hbefore, hafter, hhead⟩ := workersOf_split order (.seat k)
  refine ⟨(before.foldl (worksPass u) u).io, fun h => by rw [hhead h]; rfl, fun i hi => ?_⟩
  obtain ⟨hio, -⟩ := (worksPass_within u before u).of_calm hu
  have hown : (before.foldl (worksPass u) u).seats[k] = u.seats[k] := foldl_doUnit_seat_other hbefore
  have hwork : (worked u order).io = (after.foldl (worksPass u) (worksPass u (before.foldl (worksPass u) u) (.seat k))).io := by
    rw [worked, hsplit, List.foldl_append, List.foldl_cons]
  have hturn : (worksPass u (before.foldl (worksPass u) u) (.seat k)).io =
      (frameWorkSeat u.env k (fun j => u.seats[j].kept) (seatInputs u k) u.seats[k] (before.foldl (worksPass u) u).io).2 :=
    (congrArg (fun x => (seatResult u k x (before.foldl (worksPass u) u).io).2) hown).trans
      (congrArg Prod.snd (if_pos hserves))
  have hreads := frameWorkSeat_reads (e := u.env) k (fun j => u.seats[j].kept) (seatInputs u k) u.seats[k] hio hin i hi
  obtain ⟨hcalm, -⟩ := (frameWorkSeat_within u.env k (fun j => u.seats[j].kept) (seatInputs u k) u.seats[k] _).of_calm hio
  rw [← hturn] at hreads hcalm
  rw [hwork]
  refine Eq.trans ((worksPass_within u after _).word hcalm fun b hlo hhi => ?_) hreads
  rintro ⟨w, hw, hat⟩
  cases w with
  | stream j => exact hat
  | seat m =>
    have hne : m.val ≠ k.val := fun heq => hafter (Fin.ext heq ▸ hw)
    have hm := m.isLt
    have hk := k.isLt
    simp only [worksAt, cellsOf, block] at hat
    omega

/-- The report of a stream, once the reports are written. -/
theorem reported_reads (hu : Calm u.io)
    (hin : u.regs.windowBase.toNat ≤ u.area.toNat ∧ u.area.toNat + 16384 ≤ u.regs.windowLimit.toNat) (j : StreamNo)
    (hspeaks : ¬ u.header.silent = true) : ∃ io io' : Io, (order.head? = some (.stream j) → io = u.io) ∧
      let st := (writeBacks u.env j (fetchStream u.env j u.streams[j] io).1 io').1
      ∀ i, i < 8 → readMemWord (u.area.toNat + 0x0C00 + 32 * j.val + 4 * i) (reported u order).io.mem =
        (streamReport u.frame st).getD i 0 := by
  obtain ⟨io, hfirst, hfetch⟩ := worked_stream u order j
  obtain ⟨io', hback⟩ := backed_stream u order j
  refine ⟨io, io', hfirst, ?_⟩
  rw [← hfetch, ← hback]
  intro st i hi
  obtain ⟨hworked, -⟩ := (worked_from_start u order).of_calm hu
  obtain ⟨hbacked, -⟩ := (backsPass_within u (workersOf order) (worked u order)).of_calm hworked
  obtain ⟨before, after, hsplit, hbefore, hafter, -⟩ := workersOf_split order (.stream j)
  obtain ⟨hio, -⟩ := (reportsPass_within u before (backed u order)).of_calm hbacked
  have hown : (before.foldl (reportsPass u) (backed u order)).streams[j] = (backed u order).streams[j] :=
    foldl_doUnit_stream_other hbefore
  have hreport : (reported u order).io =
      (after.foldl (reportsPass u) (reportsPass u (before.foldl (reportsPass u) (backed u order)) (.stream j))).io := by
    rw [reported, hsplit, List.foldl_append, List.foldl_cons]
  have hturn : (reportsPass u (before.foldl (reportsPass u) (backed u order)) (.stream j)).io =
      writeStreamReport u.env j (backed u order).streams[j] (before.foldl (reportsPass u) (backed u order)).io :=
    (congrArg (fun st => (reportResult u j st (before.foldl (reportsPass u) (backed u order)).io).2) hown).trans
      (if_neg hspeaks)
  have hreads : readMemWord (u.area.toNat + 0x0C00 + 32 * j.val + 4 * i)
      (writeStreamReport u.env j (backed u order).streams[j] (before.foldl (reportsPass u) (backed u order)).io).mem =
      (streamReport u.frame (backed u order).streams[j]).getD i 0 := by
    obtain ⟨hfrom, hto⟩ := streamReport_inside u.area.toNat j
    exact placed_reads (e := u.env) (.stream j) hio (base := streamReportAt u.area.toNat j)
      (ws := streamReport u.frame (backed u order).streams[j]) ⟨hin.1.trans hfrom, hto.trans hin.2⟩ hi
  have hcalm : Calm (writeStreamReport u.env j (backed u order).streams[j] (before.foldl (reportsPass u) (backed u order)).io) :=
    ((placed_within ..).of_calm hio).1
  rw [← hturn] at hreads hcalm
  rw [hreport, ← hreads]
  refine (reportsPass_within u after _).word hcalm fun b hlo hhi => ?_
  rintro ⟨w, hw, hat⟩
  cases w with
  | seat k => exact hat
  | stream m =>
    have hne : m.val ≠ j.val := fun heq => hafter (Fin.ext heq ▸ hw)
    simp only [reportsAt, block] at hat
    omega

/-- The part tick word, once it is written. -/
theorem ticked_reads (hio : Calm (reported u order).io)
    (hin : u.regs.windowBase.toNat ≤ u.area.toNat ∧ u.area.toNat + 16384 ≤ u.regs.windowLimit.toNat) :
    readMemWord (u.area.toNat + 0x28) (ticked u order).mem = u.frame :=
  placed_reads (e := u.env) (base := u.area.toNat + 0x28) (ws := [u.frame]) .header hio
    ⟨hin.1.trans (by omega), le_trans (by rw [List.length_singleton]; omega) hin.2⟩ (i := 0) Nat.one_pos

end

theorem silent_iff (h : Header) : h.silent = true ↔ h.layoutBad = true ∧ h.adopted = false := by
  simp [Header.silent]

/-! ## What stands once the step is done -/

section
variable {u : State} {order : List Worker} {last : Io} (hu : Calm u.io) (hrunning : u.running = true)
  (hlast : WritesWithin (fun _ => False) (served u order) last)

include hrunning hlast in
theorem last_from_reported : WritesWithin (fun a => block (u.area.toNat + 0x28) 4 a ∨ slotsOf u.area.toNat a)
    (reported u order).io last :=
  (served_from_reported u order hrunning).trans (hlast.mono fun _ h => h.elim)

include hrunning hlast in
/-- After the works nothing is written above the stream reports. -/
theorem last_from_worked : WritesWithin (fun a => entriesOf u.area.toNat a ∨ (∃ j : StreamNo, reportsAt u (.stream j) a) ∨
    block (u.area.toNat + 0x28) 4 a ∨ slotsOf u.area.toNat a) (worked u order).io last :=
  ((reported_from_worked u order).trans_or (last_from_reported hrunning hlast)).mono fun _ ha => or_assoc.1 ha

include hrunning hlast in
/-- Everything that a frame of work writes. -/
theorem last_from_start : WritesWithin (fun a => (∃ k : SeatNo, worksAt u (.seat k) a) ∨ entriesOf u.area.toNat a ∨
    (∃ j : StreamNo, reportsAt u (.stream j) a) ∨ block (u.area.toNat + 0x28) 4 a ∨ slotsOf u.area.toNat a) u.io last :=
  (worked_from_start u order).trans_or (last_from_worked hrunning hlast)

include hu hrunning hlast

theorem last_tickWord
    (hin : u.regs.windowBase.toNat ≤ u.area.toNat ∧ u.area.toNat + 16384 ≤ u.regs.windowLimit.toNat) :
    readMemWord (u.area.toNat + 0x28) last.mem = u.frame := by
  obtain ⟨hworked, -⟩ := (worked_from_start u order).of_calm hu
  obtain ⟨hreported, -⟩ := (reported_from_worked u order).of_calm hworked
  obtain ⟨hticked, -⟩ := (ticked_within u order).of_calm hreported
  rw [← ticked_reads order hreported hin]
  refine ((afterTick_within u order hrunning).trans (hlast.mono fun _ h => h.elim)).word hticked fun b hfrom hto hat => ?_
  unfold slotsOf at hat
  omega

theorem last_seatReport (k : SeatNo) (i : Nat) (hi : i < 32) :
    readMemWord (u.area.toNat + 0x2000 + 128 * k.val + 4 * i) last.mem =
      readMemWord (u.area.toNat + 0x2000 + 128 * k.val + 4 * i) (worked u order).io.mem := by
  obtain ⟨hworked, -⟩ := (worked_from_start u order).of_calm hu
  refine (last_from_worked hrunning hlast).word hworked fun b hfrom hto => ?_
  unfold reportsAt entriesOf block slotsOf
  rintro (hat | ⟨j, -, hat⟩ | hat | hat) <;> omega

theorem last_streamReport (j : StreamNo) (i : Nat) (hi : i < 8) :
    readMemWord (u.area.toNat + 0x0C00 + 32 * j.val + 4 * i) last.mem =
      readMemWord (u.area.toNat + 0x0C00 + 32 * j.val + 4 * i) (reported u order).io.mem := by
  obtain ⟨hworked, -⟩ := (worked_from_start u order).of_calm hu
  obtain ⟨hreported, -⟩ := (reported_from_worked u order).of_calm hworked
  refine (last_from_reported hrunning hlast).word hreported fun b hfrom hto => ?_
  unfold block slotsOf
  rintro (hat | hat) <;> omega

theorem last_outOfService (k : SeatNo) (hidle : u.header.serving ≤ k.val) (a : Nat)
    (hfrom : u.area.toNat + 0x2000 + 128 * k.val ≤ a) (hto : a < u.area.toNat + 0x2000 + 128 * k.val + 128) :
    readByte a last.mem = readByte a u.io.mem := by
  refine ((last_from_start hrunning hlast).of_calm hu).2 a ?_
  unfold worksAt reportsAt cellsOf entriesOf block slotsOf
  rintro (⟨m, hat | ⟨hserves, hat⟩⟩ | hat | ⟨j, -, hat⟩ | hat | hat) <;> omega

theorem last_silent (j : StreamNo) (hsilent : u.header.silent = true) (a : Nat)
    (hfrom : u.area.toNat + 0x0C00 + 32 * j.val ≤ a) (hto : a < u.area.toNat + 0x0C00 + 32 * j.val + 32) :
    readByte a last.mem = readByte a u.io.mem := by
  refine ((last_from_start hrunning hlast).of_calm hu).2 a ?_
  unfold worksAt reportsAt cellsOf entriesOf block slotsOf
  rintro (⟨m, hat | ⟨-, hat⟩⟩ | hat | ⟨i, hspeaks, -⟩ | hat | hat)
  case inr.inr.inl => exact hspeaks hsilent
  all_goals omega

end

/-- Settles O20: each record reads back at the end of the pass that writes it, and what comes after writes elsewhere. -/
theorem partTickWordWritten : Obligations.PartTickWordWritten := by
  unfold Obligations.PartTickWordWritten
  intro order s hcycle hworks hwf hlo hhi
  have hexec : exec (.frameBoundary [] order) s = .next ((s.loadTurns []).boundary order).drained :=
    congrArg Host.Outcome.next (if_pos hcycle)
  refine ⟨_, hexec, ?_⟩
  have hu : (if s.tick.expired = true then (s.loadTurns []).expireAndScan else s.loadTurns []) =
      (s.loadTurns []).settleExpiry := rfl
  have hlast : WritesWithin (fun _ => False) (served (s.loadTurns []).settleExpiry order)
      ((s.loadTurns []).boundary order).drained.io := .trans (.of_reach (boundary_reach ..)) (drain_within ..)
  obtain ⟨hcalm, hstart⟩ := (WritesWithin.of_reach (S := fun _ => False) (settleExpiry_reach (s.loadTurns []))).of_calm
    ⟨rfl, hwf⟩
  replace hstart : ∀ a, readByte a (s.loadTurns []).settleExpiry.io.mem = readByte a s.io.mem :=
    fun a => hstart a not_false
  obtain ⟨-, hregs, hframe, hrunning, harea, -⟩ := settleExpiry_settled (s.loadTurns [])
  replace hrunning := hrunning.trans hworks
  generalize (s.loadTurns []).settleExpiry = u at hu hlast hcalm hstart hregs hframe hrunning harea
  generalize ((s.loadTurns []).boundary order).drained = t at hlast
  obtain ⟨pending, regs, frame, cycle, running, area, io, tick, header, sh, nh, seats, streams, pool, slotMap⟩ := s
  obtain rfl : u.regs = regs := hregs
  obtain rfl : u.frame = frame := hframe
  obtain rfl : u.area = area := harea
  have hin : u.regs.windowBase.toNat ≤ u.area.toNat ∧ u.area.toNat + 16384 ≤ u.regs.windowLimit.toNat := ⟨hlo, hhi⟩
  have htick := last_tickWord hcalm hrunning hlast hin
  refine ⟨htick, ?_⟩
  intro loaded u' silent
  have hu' : u' = u := hu
  clear_value u'
  subst hu'
  refine ⟨fun k => ⟨fun hserves => ?seat, fun hidle a hfrom hto => ?outOfService⟩,
    fun j => ⟨fun hspeaks => ?stream, fun hsilent a hfrom hto => ?silent⟩⟩
  case seat =>
    obtain ⟨io, hfirst, hreads⟩ := worked_reads order hcalm hin k hserves
    exact ⟨io, hfirst, fun i hi => (last_seatReport hcalm hrunning hlast k i hi).trans (hreads i hi)⟩
  case outOfService => exact (last_outOfService hcalm hrunning hlast k hidle a hfrom hto).trans (hstart a)
  case stream =>
    obtain ⟨io, io', hfirst, hreads⟩ := reported_reads order hcalm hin j (mt (silent_iff _).1 hspeaks)
    exact ⟨io, io', hfirst, fun i hi => (last_streamReport hcalm hrunning hlast j i hi).trans (hreads i hi)⟩
  case silent =>
    exact (last_silent hcalm hrunning hlast j ((silent_iff _).2 hsilent) a hfrom hto).trans (hstart a)

end Sys2Proof.StationReports
end
